-- ==== Sys2Proof/Word.lean ====
section
/-! DEFINITION. The words of the block: bytes, samples, blocks of coefficients, and a register with the mark that
says whether anything has written it since reset (spec/10_state.md R46). -/

namespace Sys2Proof

/-- A byte is 8 bits (R14). -/
abbrev Byte := BitVec 8

/-- A PCM sample: signed 16 bits (R60, R61). -/
abbrev Sample := BitVec 16

/-- An ADPCM nibble (R14, R103). -/
abbrev Nibble := BitVec 4

/-- An 8x8 block of coefficients in the pixel or transform domain; element `k` is row `k / 8`, column `k % 8` (R35). -/
abbrev Block := List Int

/-- A quantised 8x8 block: each element in the signed 10-bit range (R36). -/
abbrev QBlock := List (BitVec 10)

/-- A register whose reset value the spec leaves unspecified (R46): the value it holds, and whether anything has
written it since reset. Reading it while `written` is false is what R46 makes a refusal. -/
structure Marked (α : Type) where
  val : α
  written : Bool
  deriving DecidableEq, Repr

/-- A register as reset leaves it. -/
def Marked.atReset {α : Type} (v : α) : Marked α := ⟨v, false⟩

/-- A register that an operation has written. -/
def Marked.put {α : Type} (v : α) : Marked α := ⟨v, true⟩

/-- `clamp(x, lo, hi)` of R13. -/
def clamp (x lo hi : Int) : Int := if x < lo then lo else if hi < x then hi else x

end Sys2Proof
end

