-- ==== Sys2Proof/Syntax.lean ====
section
/-! DEFINITION. The commands of the block (spec/30_encoding.md R91), one constructor per row of the opcode table, and
the record in which a command reaches the block (R90). -/

namespace Sys2Proof

/-- The 28 commands. Every operand is a whole natural number, as its rule names it (R90). -/
inductive Instr where
  /-- BW.WRITE (R131) -/
  | bwWrite (n value : Nat)
  /-- BW.FLUSH (R135) -/
  | bwFlush
  /-- AD.RESET (R151) -/
  | adReset (c : Nat)
  /-- AD.MINSHIFT (R155) -/
  | adMinshift (c base stride f : Nat)
  /-- AD.TRIAL (R159) -/
  | adTrial (c base stride f r : Nat)
  /-- AD.ENCODE (R166) -/
  | adEncode (c base stride filterCount dbase dataShift dataPitch : Nat)
  /-- VD.BEGIN (R191) -/
  | vdBegin
  /-- VD.CSC (R194) -/
  | vdCsc (n mx my : Nat)
  /-- VD.DCT (R198) -/
  | vdDct (b : Nat)
  /-- VD.QUANT (R202) -/
  | vdQuant (b m : Nat)
  /-- VD.RATE (R206) -/
  | vdRate
  /-- VD.PACK (R211) -/
  | vdPack (m b : Nat)
  /-- VD.END (R213) -/
  | vdEnd
  /-- VD.DEMUX (R215) -/
  | vdDemux
  /-- VD.FRAME (R219) -/
  | vdFrame (n : Nat)
  /-- SC.TABLES (R245) -/
  | scTables
  /-- SC.INIT (R241) -/
  | scInit (submode coding : Nat)
  /-- SC.STAMP (R243) -/
  | scStamp (lba : Nat)
  /-- SC.EDC (R248) -/
  | scEdc (form : Nat)
  /-- SC.PQ (R256) -/
  | scPq
  /-- SC.EMIT (R259) -/
  | scEmit (size : Nat)
  /-- MX.XA (R285) -/
  | mxXa
  /-- MX.SPU (R289) -/
  | mxSpu
  /-- MX.SPUI (R290) -/
  | mxSpui
  /-- MX.STR (R293) -/
  | mxStr
  /-- MX.ISO2RAW (R297) -/
  | mxIso2raw
  /-- SYS.RESET (R350) -/
  | sysReset
  /-- SYS.VALIDATE (R322) -/
  | sysValidate
  deriving DecidableEq, Repr

/-- A command as the host issues it: an opcode of 8 bits and an operand record, the operands in the order of R91
(R90). -/
structure Command where
  opcode : Byte
  operands : List Nat
  deriving DecidableEq, Repr

end Sys2Proof
end

