-- ==== Sys2Proof/WellFormed.lean ====
section
/-! DEFINITION. Which commands have every operand inside the range its rule gives, as far as the operands alone
decide it. A command outside these ranges can still be issued: it raises the fault its rule names (R92, R323). -/

namespace Sys2Proof

/-- The operand checks that need no state: BW.WRITE (R131), AD.MINSHIFT (R155), AD.TRIAL (R159), AD.ENCODE (R166),
VD.DCT (R198), VD.QUANT (R202), VD.PACK (R211), SC.INIT (R241), SC.EDC (R248), SC.EMIT (R259). -/
def Instr.wellFormed : Instr → Bool
  | .bwWrite n value => decide (n ≤ 16) && decide (value < 2 ^ n)
  | .bwFlush => true
  | .adReset _ => true
  | .adMinshift _ _ stride f => decide (1 ≤ stride) && decide (f < 5)
  | .adTrial _ _ stride f r => decide (1 ≤ stride) && decide (f < 5) && decide (r ≤ 12)
  | .adEncode _ _ stride filterCount _ dataShift dataPitch =>
    decide (1 ≤ stride) && decide (1 ≤ filterCount) && decide (filterCount ≤ 5) &&
      (dataShift == 0 || dataShift == 4) && decide (1 ≤ dataPitch)
  | .vdBegin => true
  | .vdCsc _ _ _ => true
  | .vdDct b => decide (b ≤ 5)
  | .vdQuant b _ => decide (b ≤ 5)
  | .vdRate => true
  | .vdPack _ b => decide (b ≤ 5)
  | .vdEnd => true
  | .vdDemux => true
  | .vdFrame _ => true
  | .scTables => true
  | .scInit submode coding => decide (submode ≤ 0xFF) && decide (coding ≤ 0xFF)
  | .scStamp _ => true
  | .scEdc form => form == 1 || form == 2
  | .scPq => true
  | .scEmit size => size == 2336 || size == 2352
  | .mxXa => true
  | .mxSpu => true
  | .mxSpui => true
  | .mxStr => true
  | .mxIso2raw => true
  | .sysReset => true
  | .sysValidate => true

end Sys2Proof
end

