-- ==== Sys2Proof/Decode.lean ====
section
/-! DEFINITION. The decoder of commands (spec/30_encoding.md R90 to R93), its encoder, and the reading of one row of
spec/opcode_table.json. -/

namespace Sys2Proof

/-- Why a command is not read as an instruction. -/
inductive DecodeError where
  /-- the opcode is not in the map of R91 (R92) -/
  | illegalOpcode (opcode : Nat)
  /-- the operand record does not have the operands R91 gives the opcode; no rule gives such a command a meaning -/
  | operandCount (opcode given : Nat)
  deriving DecidableEq, Repr

/-- How many operands the record of an opcode has (R91); none for an illegal opcode (R92). -/
def operandCount : Nat → Option Nat
  | 0x01 => some 2
  | 0x02 => some 0
  | 0x10 => some 1
  | 0x11 => some 4
  | 0x12 => some 5
  | 0x13 => some 7
  | 0x20 => some 0
  | 0x21 => some 3
  | 0x22 => some 1
  | 0x23 => some 2
  | 0x24 => some 0
  | 0x25 => some 2
  | 0x26 => some 0
  | 0x27 => some 0
  | 0x28 => some 1
  | 0x30 => some 0
  | 0x31 => some 2
  | 0x32 => some 1
  | 0x33 => some 1
  | 0x34 => some 0
  | 0x35 => some 1
  | 0x40 => some 0
  | 0x41 => some 0
  | 0x42 => some 0
  | 0x43 => some 0
  | 0x44 => some 0
  | 0xF0 => some 0
  | 0xF1 => some 0
  | _ => none

/-- The opcode map of R91: an opcode and its operands to the instruction. -/
def instrOf (opcode : Nat) (operands : List Nat) : Option Instr :=
  match opcode, operands with
  | 0x01, [n, value] => some (.bwWrite n value)
  | 0x02, [] => some .bwFlush
  | 0x10, [c] => some (.adReset c)
  | 0x11, [c, base, stride, f] => some (.adMinshift c base stride f)
  | 0x12, [c, base, stride, f, r] => some (.adTrial c base stride f r)
  | 0x13, [c, base, stride, fc, dbase, ds, dp] => some (.adEncode c base stride fc dbase ds dp)
  | 0x20, [] => some .vdBegin
  | 0x21, [n, mx, my] => some (.vdCsc n mx my)
  | 0x22, [b] => some (.vdDct b)
  | 0x23, [b, m] => some (.vdQuant b m)
  | 0x24, [] => some .vdRate
  | 0x25, [m, b] => some (.vdPack m b)
  | 0x26, [] => some .vdEnd
  | 0x27, [] => some .vdDemux
  | 0x28, [n] => some (.vdFrame n)
  | 0x30, [] => some .scTables
  | 0x31, [submode, coding] => some (.scInit submode coding)
  | 0x32, [lba] => some (.scStamp lba)
  | 0x33, [form] => some (.scEdc form)
  | 0x34, [] => some .scPq
  | 0x35, [size] => some (.scEmit size)
  | 0x40, [] => some .mxXa
  | 0x41, [] => some .mxSpu
  | 0x42, [] => some .mxSpui
  | 0x43, [] => some .mxStr
  | 0x44, [] => some .mxIso2raw
  | 0xF0, [] => some .sysReset
  | 0xF1, [] => some .sysValidate
  | _, _ => none

/-- The decoder, total on any opcode byte and any operand record. -/
def decode (cmd : Command) : Except DecodeError Instr :=
  match instrOf cmd.opcode.toNat cmd.operands with
  | some i => .ok i
  | none =>
    match operandCount cmd.opcode.toNat with
    | some _ => .error (.operandCount cmd.opcode.toNat cmd.operands.length)
    | none => .error (.illegalOpcode cmd.opcode.toNat)

/-- The command of an instruction, written from R91. -/
def encode : Instr → Command
  | .bwWrite n value => ⟨0x01, [n, value]⟩
  | .bwFlush => ⟨0x02, []⟩
  | .adReset c => ⟨0x10, [c]⟩
  | .adMinshift c base stride f => ⟨0x11, [c, base, stride, f]⟩
  | .adTrial c base stride f r => ⟨0x12, [c, base, stride, f, r]⟩
  | .adEncode c base stride filterCount dbase dataShift dataPitch =>
    ⟨0x13, [c, base, stride, filterCount, dbase, dataShift, dataPitch]⟩
  | .vdBegin => ⟨0x20, []⟩
  | .vdCsc n mx my => ⟨0x21, [n, mx, my]⟩
  | .vdDct b => ⟨0x22, [b]⟩
  | .vdQuant b m => ⟨0x23, [b, m]⟩
  | .vdRate => ⟨0x24, []⟩
  | .vdPack m b => ⟨0x25, [m, b]⟩
  | .vdEnd => ⟨0x26, []⟩
  | .vdDemux => ⟨0x27, []⟩
  | .vdFrame n => ⟨0x28, [n]⟩
  | .scTables => ⟨0x30, []⟩
  | .scInit submode coding => ⟨0x31, [submode, coding]⟩
  | .scStamp lba => ⟨0x32, [lba]⟩
  | .scEdc form => ⟨0x33, [form]⟩
  | .scPq => ⟨0x34, []⟩
  | .scEmit size => ⟨0x35, [size]⟩
  | .mxXa => ⟨0x40, []⟩
  | .mxSpu => ⟨0x41, []⟩
  | .mxSpui => ⟨0x42, []⟩
  | .mxStr => ⟨0x43, []⟩
  | .mxIso2raw => ⟨0x44, []⟩
  | .sysReset => ⟨0xF0, []⟩
  | .sysValidate => ⟨0xF1, []⟩

/-- The command whose opcode is the table word and whose operands are all zero: the table gives no bits to the
operands, and R90 gives them no bit position (log 2). -/
def tableCommand (nbits w : Nat) : Command :=
  let op := BitVec.ofNat 8 (w % 2 ^ nbits)
  ⟨op, List.replicate ((operandCount op.toNat).getD 0) 0⟩

/-- What the decoder reads from a word of spec/opcode_table.json. Bits above the opcode have no meaning in R90, so a
word that sets one is no command. -/
def decodeTableWord (nbits w : Nat) : Option Instr :=
  if w % 2 ^ nbits < 256 then (decode (tableCommand nbits w)).toOption else none

end Sys2Proof
end

