-- ==== Sys2Proof/Config.lean ====
section
/-! DEFINITION. The configuration of spec/00_scope.md R11: the type of a configuration, and the values nobody fixes,
each an opaque constant without a body (log entries 4 to 8, 12 to 17, 28, 29, 36, 42 and 45). The configuration this hardware
takes is `Config.hw` of Sys2Proof/Machine/Params.lean. -/

namespace Sys2Proof

/-- VD_HDR_LAYOUT of R217: both admissible instances. -/
inductive HdrLayout where
  /-- every field of the table of R217 -/
  | suggested
  /-- the seven fields the source names, zero elsewhere -/
  | sourceFields
  deriving DecidableEq, Repr

/-- SC_SUBMODE bits: the position of each flag in the submode byte (R108). -/
structure SubmodeBits where
  endOfRecord : Nat
  video : Nat
  audio : Nat
  data : Nat
  trigger : Nat
  form2 : Nat
  realTime : Nat
  endOfFile : Nat
  deriving DecidableEq, Repr

/-- SC_CODING bits: the position of each two-bit field in the coding-info byte (R109). -/
structure CodingBits where
  stereo : Nat
  rate : Nat
  depth : Nat
  deriving DecidableEq, Repr

/-- The parameters of R11, each a field. AD_NCH is the `channels` setting of `CFG` (R11; log 30). -/
structure Config where
  /-- AD_NSAMP: samples of an ADPCM block -/
  nsamp : Nat
  /-- AD_SHIFT_MAX: the largest shift -/
  shiftMax : Nat
  /-- AD_NFILT: the filters that exist -/
  nfilt : Nat
  /-- AD_FC_SPU -/
  fcSpu : Nat
  /-- AD_FC_XA -/
  fcXa : Nat
  /-- AD_K1 -/
  k1 : List Int
  /-- AD_K2 -/
  k2 : List Int
  /-- AD_PRED_SHIFT -/
  predShift : Nat
  /-- AD_QERR_ENABLE -/
  qerrEnable : Bool
  /-- BW_ACC_BITS: the free bits of an empty accumulator -/
  accBits : Nat
  /-- BW_NMAX: the largest n of one write -/
  bwNmax : Nat
  /-- OUT_CAP; `none` is unbounded (C4) -/
  outCap : Option Nat
  /-- VD_CSC_Y -/
  cscY : Nat → Nat → Nat → Int
  /-- VD_CSC_CR -/
  cscCr : Nat → Nat → Nat → Int
  /-- VD_CSC_CB -/
  cscCb : Nat → Nat → Nat → Int
  /-- VD_LUMA_BIAS -/
  lumaBias : Int
  /-- VD_SCALE -/
  scale : List Int
  /-- VD_FRAC: fractional bits of VD_SCALE -/
  frac : Nat
  /-- VD_DC_DIV -/
  dcDiv : Nat
  /-- VD_ALL_DIV -/
  allDiv : Nat
  /-- VD_QUANT -/
  quant : List Nat
  /-- VD_ZTHRESH -/
  zthresh : Nat → Nat
  /-- VD_COEF_MIN -/
  coefMin : Int
  /-- VD_COEF_MAX -/
  coefMax : Int
  /-- VD_BUDGET -/
  budget : Nat
  /-- VD_CUT_LUMA -/
  cutLuma : Nat → Nat
  /-- VD_CUT_CHROMA -/
  cutChroma : Nat → Nat
  /-- the iteration T of R207 (c) -/
  cutLast : Nat
  /-- VD_ZAGZIG: scan position to grid index -/
  zagzig : List Nat
  /-- VD_ZIGZAG: its inverse, grid index to scan position (R44, R209); no rule reads it -/
  zigzag : List Nat
  /-- VD_ESC, a 6-bit value -/
  esc : Nat
  /-- VD_EOB, a 2-bit value -/
  eob : Nat
  /-- VD_SENTINEL: the DC-like value that ends a frame -/
  sentinel : Nat
  /-- VD_QSCALE -/
  qscale : Nat
  /-- VD_NCHUNK: chunks of a frame -/
  nchunk : Nat
  /-- VD_CHUNK_BYTES: payload bytes of a chunk -/
  chunkBytes : Nat
  /-- VD_HDR_BYTES: header bytes of a chunk -/
  hdrBytes : Nat
  /-- VD_HDR_LAYOUT -/
  hdrLayout : HdrLayout
  /-- VD_MB_ORDER: columns, rows, macroblock number to grid position (mx, my) -/
  mbOrder : Nat → Nat → Nat → Nat × Nat
  /-- SC_BYTES: a whole sector -/
  sectorBytes : Nat
  /-- SC_SYNC, 12 bytes -/
  sync : List Byte
  /-- SC_MODE -/
  mode : Byte
  /-- SC_SUBMODE bits; the four submode values below are parameters of their own (R11) -/
  submodeBits : SubmodeBits
  /-- SC_CODING bits -/
  codingBits : CodingBits
  /-- SC_SM_AUDIO -/
  smAudio : Nat
  /-- SC_SM_VIDEO -/
  smVideo : Nat
  /-- SC_SM_DATA -/
  smData : Nat
  /-- SC_SM_END -/
  smEnd : Nat
  /-- SC_LBA_BASE -/
  lbaBase : Nat
  /-- EDC_POLY -/
  edcPoly : BitVec 32
  /-- EDC_REFLECTED -/
  edcReflected : Bool
  /-- EDC_INIT -/
  edcInit : BitVec 32
  /-- EDC_XOROUT -/
  edcXorOut : BitVec 32
  /-- GF_POLY -/
  gfPoly : Nat
  /-- GF_GEN -/
  gfGen : Nat
  /-- PQ_ZERO_MODE -/
  pqZeroMode : Bool
  /-- ST_GROUP: the sectors of one STR group -/
  stGroup : Nat
  /-- ST_AUDIO_SLOT -/
  audioSlot : Nat
  /-- STR_FIRST_FRAME -/
  firstFrame : Nat
  /-- VAG_NAME, 16 bytes -/
  vagName : List Byte
  /-- XA_FREQS -/
  xaFreqs : List Nat
  /-- XA_CADENCE: the sub-blocks of an XA sector (R286) -/
  xaCadence : Nat

namespace Config

/-- The bytes of one `DMX` slot: a chunk's header and payload (R215). -/
def slotBytes (c : Config) : Nat := c.hdrBytes + c.chunkBytes

/-- The bytes of the seven chunks' payloads together (R218). -/
def frameBytes (c : Config) : Nat := c.nchunk * c.chunkBytes

/-! The OPEN parameters, raw: opaque constants with no body. Params.lean brings each into the range the spec's
constraint gives, by a map onto exactly the admissible values. -/

/-- OUT_CAP less its stated minimum (log 15). -/
opaque rawOutCap : Option Nat
/-- VD_CSC_Y (log 12). -/
opaque rawCscY : Nat → Nat → Nat → Int
/-- VD_CSC_CR (log 12). -/
opaque rawCscCr : Nat → Nat → Nat → Int
/-- VD_CSC_CB (log 12). -/
opaque rawCscCb : Nat → Nat → Nat → Int
/-- VD_DC_DIV less 1 (log 15). -/
opaque rawDcDiv : Nat
/-- VD_ALL_DIV less 1 (log 15). -/
opaque rawAllDiv : Nat
/-- VD_ZTHRESH (log 15). -/
opaque rawZthresh : Nat → Nat
/-- VD_CUT_LUMA (log 13). -/
opaque rawCutLuma : Nat → Nat
/-- VD_CUT_CHROMA (log 13). -/
opaque rawCutChroma : Nat → Nat
/-- The T of R207 (c) less 1 (log 13). -/
opaque rawCutLast : Nat
/-- VD_MB_ORDER, as the key by which the macroblocks of a frame are sorted (log 14). -/
opaque rawMbKey : Nat → Nat → Nat → Nat
/-- SC_LBA_BASE (log 16). -/
opaque rawLbaBase : Nat
/-- ST_AUDIO_SLOT (log 17). -/
opaque rawAudioSlot : Nat
/-- STR_FIRST_FRAME, 32 bits (log 17). -/
opaque rawFirstFrame : BitVec 32
/-- VAG_NAME, byte by byte (log 17). -/
opaque rawVagName : Nat → Byte

/-! Free values: what the spec leaves without a value in a machine that goes on. -/

/-- The byte at an address of `SEC` that nothing has written since reset: the reset's number, the address (log 4). -/
opaque freeSecByte : Nat → Nat → Byte
/-- The same for `SCR` (log 5). -/
opaque freeScrByte : Nat → Nat → Byte
/-- The same for `DMX`, which no command reads unwritten (log 5). -/
opaque freeDmxByte : Nat → Nat → Byte
/-- A byte of `RGBA` the host declared and did not fill (log 8). -/
opaque freeRgbaByte : Nat → Byte
/-- A byte of `ISO` the host declared and did not fill (log 8). -/
opaque freeIsoByte : Nat → Byte
/-- Byte number `i` of a field of `width` bytes into which `value` does not fit: `freeFieldByte width value i`
(log 28). -/
opaque freeFieldByte : Nat → Nat → Nat → Byte
/-- What `CFG.file` holds after the host writes a value that does not fit its 8 bits (log 45). -/
opaque freeFileNumber : Nat → BitVec 8
/-- The same for `CFG.channel` (log 45). -/
opaque freeChannelNumber : Nat → BitVec 8
/-- The same for `CFG.loop` and its 1 bit (log 45). -/
opaque freeLoopFlag : Nat → BitVec 1
/-- The count of chunks of 0 items in `a` items, `a` above 0 (log 29). -/
opaque freeCount : Nat → Nat
/-- The two bits at position `pos` of the coding-info byte for a `value` to which R109 gives no code:
`freeCoding pos value` (log 42). -/
opaque freeCoding : Nat → Nat → BitVec 2
/-- The carried error at sample `i` of a block whose channel holds `qerr`, under AD_QERR_ENABLE = true alone: the spec
gives no update (log 36). -/
opaque freeCarry : BitVec 32 → Nat → BitVec 32

end Config
end Sys2Proof
end

