-- ==== Sys2Proof/Machine/Params.lean ====
section
/-! DEFINITION. The configurations: the values of spec/00_scope.md R11, the test instances of spec/42_dct_video.md
R196, R200, R204, R207, and `Config.hw`, the configuration this hardware takes, whose OPEN parameters are opaque. -/

namespace Sys2Proof
namespace Config

/-- AD_K1 of R153 (G1). -/
def tableK1 : List Int := [0, 60, 115, 98, 122]

/-- AD_K2 of R153 (G1). -/
def tableK2 : List Int := [0, 0, -52, -55, -60]

/-- VD_SCALE of R199 (G4), index `8*i + k`. -/
def tableScale : List Int :=
  [23170,  23170,  23170,  23170,  23170,  23170,  23170,  23170] ++
  [32138,  27245,  18204,   6392,  -6393, -18205, -27246, -32139] ++
  [30273,  12539, -12540, -30274, -30274, -12540,  12539,  30273] ++
  [27245,  -6393, -32139, -18205,  18204,  32138,   6392, -27246] ++
  [23170, -23171, -23171,  23170,  23170, -23171, -23171,  23170] ++
  [18204, -32139,   6392,  27245, -27246,  -6393,  32138, -18205] ++
  [12539, -30274,  30273, -12540, -12540,  30273, -30274,  12539] ++
  [ 6392, -18205,  27245, -32139,  32138, -27246,  18204,  -6393]

/-- VD_QUANT of R203 (G5), index `8*row + column`. -/
def tableQuant : List Nat :=
  [ 2, 16, 19, 22, 26, 27, 29, 34] ++
  [16, 16, 22, 24, 27, 29, 34, 37] ++
  [19, 22, 26, 27, 29, 34, 34, 38] ++
  [22, 22, 26, 27, 29, 34, 37, 40] ++
  [22, 26, 27, 29, 32, 35, 40, 48] ++
  [26, 27, 29, 32, 35, 40, 48, 58] ++
  [26, 27, 29, 34, 38, 46, 56, 69] ++
  [27, 29, 35, 38, 46, 56, 69, 83]

/-- VD_ZAGZIG of R210 (G6): scan position to grid index. -/
def tableZagzig : List Nat :=
  [ 0,  1,  8, 16,  9,  2,  3, 10] ++
  [17, 24, 32, 25, 18, 11,  4,  5] ++
  [12, 19, 26, 33, 40, 48, 41, 34] ++
  [27, 20, 13,  6,  7, 14, 21, 28] ++
  [35, 42, 49, 56, 57, 50, 43, 36] ++
  [29, 22, 15, 23, 30, 37, 44, 51] ++
  [58, 59, 52, 45, 38, 31, 39, 46] ++
  [53, 60, 61, 54, 47, 55, 62, 63]

/-- VD_ZIGZAG, the inverse permutation (R44, R209): grid index to scan position. -/
def tableZigzag : List Nat := (List.range 64).map fun k => tableZagzig.idxOf k

/-- The positions of R108 (G14). -/
def tableSubmodeBits : SubmodeBits where
  endOfRecord := 0
  video := 1
  audio := 2
  data := 3
  trigger := 4
  form2 := 5
  realTime := 6
  endOfFile := 7

/-- The positions of R109 (G14). -/
def tableCodingBits : CodingBits where
  stereo := 0
  rate := 2
  depth := 4

/-- SC_SYNC of R106 (G8). -/
def tableSync : List Byte := [0x00, 0xFF, 0xFF, 0xFF, 0xFF, 0xFF, 0xFF, 0xFF, 0xFF, 0xFF, 0xFF, 0x00]

/-- The luma of four summed pixels in the test instance of R196. -/
def testYsum (r g b : Nat) : Int := ((306 * r + 601 * g + 117 * b : Nat) : Int) >>> 10

/-- The configuration of spec/95_test_vectors.md: R11 with the test instances of R196, R200, R204, R207 and the
suggested values of R192, R243, R293, R34, R291. Only tests use it. -/
def testInstance : Config where
  nsamp := 28
  shiftMax := 12
  nfilt := 5
  fcSpu := 5
  fcXa := 4
  k1 := tableK1
  k2 := tableK2
  predShift := 6
  qerrEnable := false
  accBits := 16
  bwNmax := 16
  outCap := none
  cscY := fun r g b => ((1225 * r + 2404 * g + 467 * b : Nat) : Int) >>> 10
  cscCr := fun r g b => Int.tdiv (((r : Int) - testYsum r g b) * 730) 1024
  cscCb := fun r g b => Int.tdiv (((b : Int) - testYsum r g b) * 578) 1024
  lumaBias := 0x200
  scale := tableScale
  frac := 14
  dcDiv := 8
  allDiv := 8
  quant := tableQuant
  zthresh := fun _ => 0
  coefMin := -512
  coefMax := 511
  budget := 6500
  cutLuma := fun t => 1 + t
  cutChroma := fun t => 1 + 2 * t
  cutLast := 512
  zagzig := tableZagzig
  zigzag := tableZigzag
  esc := 0b000001
  eob := 0b10
  sentinel := 0x1FF
  qscale := 1
  nchunk := 7
  chunkBytes := 2016
  hdrBytes := 32
  hdrLayout := .suggested
  mbOrder := fun _ mbh m => (m / mbh, m % mbh)
  sectorBytes := 2352
  sync := tableSync
  mode := 0x02
  submodeBits := tableSubmodeBits
  codingBits := tableCodingBits
  smAudio := 0x64
  smVideo := 0x48
  smData := 0x08
  smEnd := 0x81
  lbaBase := 150
  edcPoly := 0xD8018001
  edcReflected := true
  edcInit := 0
  edcXorOut := 0
  gfPoly := 0x11D
  gfGen := 0x02
  pqZeroMode := true
  stGroup := 8
  audioSlot := 7
  firstFrame := 1
  vagName := List.replicate 16 0
  xaFreqs := [37800, 18900]
  xaCadence := 18

/-! The OPEN parameters of `hw`: each definition maps the raw opaque value onto the values the spec's constraint
admits, and every admissible value is reached by some raw one. -/

/-- OUT_CAP: unbounded, or at least 7 x 2016 bytes (R11; log 15). -/
def openOutCap : Option Nat := rawOutCap.map (· + 7 * 2016)

/-- VD_CSC_Y under R196 (a), (b). -/
def openCscY (r g b : Nat) : Int :=
  if r = 0 ∧ g = 0 ∧ b = 0 then 0 else clamp (rawCscY r g b) 0 0x3FF

/-- VD_CSC_CR under R196 (a), (c). -/
def openCscCr (r g b : Nat) : Int :=
  if r = 0 ∧ g = 0 ∧ b = 0 then 0 else clamp (rawCscCr r g b) (-512) 511

/-- VD_CSC_CB under R196 (a), (c). -/
def openCscCb (r g b : Nat) : Int :=
  if r = 0 ∧ g = 0 ∧ b = 0 then 0 else clamp (rawCscCb r g b) (-512) 511

/-- A cutoff schedule under R207: at most 1 at iteration 0, never falling, at least 513 from iteration `last` on. -/
def openCut (raw : Nat → Nat) (last : Nat) : Nat → Nat
  | 0 => min (raw 0) 1
  | t + 1 =>
    let v := max (openCut raw last t) (raw (t + 1))
    if last ≤ t + 1 then max v 513 else v

/-- The T of R207 (c). -/
def openCutLast : Nat := rawCutLast + 1

/-- VD_MB_ORDER (R192): the macroblocks, numbered row by row, in the order of their keys; every order of the
macroblocks is one of these, and each of these is a bijection. -/
def openMbOrder (mbw mbh m : Nat) : Nat × Nat :=
  let key := rawMbKey mbw mbh
  let g := ((List.range (mbw * mbh)).insertionSort (fun a b => key a ≤ key b)).getD m 0
  (g % mbw, g / mbw)

/-- ST_AUDIO_SLOT: 0 to 7 (R11). -/
def openAudioSlot : Nat := rawAudioSlot % 8

/-- STR_FIRST_FRAME: 32 bits (R34). -/
def openFirstFrame : Nat := rawFirstFrame.toNat

/-- VAG_NAME: 16 bytes (R291). -/
def openVagName : List Byte := (List.range 16).map rawVagName

/-- The configuration this hardware takes (R11): the source's and the general-knowledge values as R11 lists them, the
OPEN parameters left open. -/
def hw : Config :=
  { testInstance with
    outCap := openOutCap
    cscY := openCscY
    cscCr := openCscCr
    cscCb := openCscCb
    dcDiv := rawDcDiv + 1
    allDiv := rawAllDiv + 1
    zthresh := rawZthresh
    cutLuma := openCut rawCutLuma openCutLast
    cutChroma := openCut rawCutChroma openCutLast
    cutLast := openCutLast
    mbOrder := openMbOrder
    lbaBase := rawLbaBase
    audioSlot := openAudioSlot
    firstFrame := openFirstFrame
    vagName := openVagName }

end Config
end Sys2Proof
end

