-- ==== Sys2Proof/Machine/State.lean ====
section
/-! DEFINITION. The state of the block (spec/10_state.md R20), the host's buffers (spec/20_memory.md R60), the host's
pending actions, the reasons a step can stop, and the state after reset (R46, R350). State is plain data. -/

namespace Sys2Proof.Machine

/-- A sparse array: pairs of an index and a value, indexes strictly rising. -/
abbrev Store (α : Type) := List (Nat × α)

/-- A byte buffer with addresses `0` to `size - 1` (R60). A listed address holds a byte something wrote; an unlisted
one is an address nothing has written. -/
structure Memory where
  size : Nat
  cells : List Host.Cell
  deriving DecidableEq, Repr

/-- The state of one channel, `CH[c]` (R21). -/
structure Channel where
  /-- `quantization_error`, signed 32 bits (R24) -/
  qerr : BitVec 32
  /-- the most recent reconstructed sample (R22) -/
  prev1 : Sample
  /-- the reconstructed sample before it (R23) -/
  prev2 : Sample
  deriving DecidableEq, Repr

/-- `CAND`: the candidate of one trial (R26). -/
structure Cand where
  qerr : BitVec 32
  prev1 : Sample
  prev2 : Sample
  mse : BitVec 64
  nib : List Nibble
  deriving DecidableEq, Repr

/-- `BEST`: the best pair of a search (R27); `none` is +infinity. -/
structure Best where
  mse : Option (BitVec 64)
  f : Nat
  r : Nat
  deriving DecidableEq, Repr

/-- `CFG.format` (R40): the eight selectors, and a value that is none of them, which clause 1 of R322 refuses. -/
inductive Format where
  | xa | xacd | spu | spui | vag | vagi | str2 | str2cd
  | other (selector : Nat)
  deriving DecidableEq, Repr

/-- `CFG`, the stream settings (R40). `file` and `channel` hold 8 bits and `loop` 1 bit: a write of the
host keeps them within it (`fitted`), and clause 7 of R322 asks the same of them (log 45). -/
structure Settings where
  format : Marked Format
  frequency : Marked Nat
  channels : Marked Nat
  bits : Marked Nat
  file : Marked Nat
  channel : Marked Nat
  interleave : Marked Nat
  alignment : Marked Nat
  loop : Marked Nat
  width : Marked Nat
  height : Marked Nat
  deriving DecidableEq, Repr

/-- `PHASE` (R42, R281). -/
inductive Phase where
  | init | encoding | finalize | done | faulted
  deriving DecidableEq, Repr

/-- One host write to a field of `CFG` (R40). -/
inductive Setting where
  | format (v : Format)
  | frequency (v : Nat)
  | channels (v : Nat)
  | bits (v : Nat)
  | file (v : Nat)
  | channel (v : Nat)
  | interleave (v : Nat)
  | alignment (v : Nat)
  | loop (v : Nat)
  | width (v : Nat)
  | height (v : Nat)
  deriving DecidableEq, Repr

/-- The host's byte buffers (R60). -/
inductive HostBuffer where
  | rgba | iso | data
  deriving DecidableEq, Repr

/-- One action of the host between commands (R19, R332): a command, or a write to something the host may write. -/
inductive HostMove where
  /-- issue a command (R90) -/
  | command (cmd : Command)
  /-- write a field of `CFG` (R40, R41) -/
  | setting (w : Setting)
  /-- declare and fill `PCM` (R61, R352) -/
  | pcm (samples : List Sample)
  /-- declare and fill a byte buffer (R352) -/
  | buffer (b : HostBuffer) (bytes : List Byte)
  /-- write one byte of a byte buffer (R332) -/
  | store (b : HostBuffer) (addr : Nat) (byte : Byte)
  /-- write one payload or subheader byte of `SEC` (R332, R38) -/
  | storeSec (addr : Nat) (byte : Byte)
  deriving DecidableEq, Repr

/-- The state of the block, the host's buffers it reaches, and the model's own fields `epoch` and `moves`. -/
structure State where
  /-- the channel bank `CH` (R21); an unlisted channel holds `(0, 0, 0)` -/
  ch : Store Channel
  /-- `CAND` (R26) -/
  cand : Marked Cand
  /-- `BEST` (R27) -/
  best : Marked Best
  /-- `AD_HDR` (R27) -/
  adHdr : Marked Byte
  /-- `AD_MSE` (R27) -/
  adMse : Marked (BitVec 64)
  /-- `AD_MIN` (R27) -/
  adMin : Marked Nat
  /-- `BW.acc` (R28) -/
  bwAcc : BitVec 16
  /-- `BW.left` (R29) -/
  bwLeft : Nat
  /-- `OUT`; its length is `OUT.len` (R30) -/
  out : List Byte
  /-- `FC.words` (R32) -/
  fcWords : Nat
  /-- `FC.qscale` (R33) -/
  fcQscale : Nat
  /-- `FC.frame_index` (R34) -/
  fcFrameIndex : Nat
  /-- `MB`: six blocks (R35) -/
  mb : Marked (List Block)
  /-- `FB`: block `b` of macroblock `m` at index `6*m + b` (R37) -/
  fb : Store QBlock
  /-- `FBC`, indexed as `FB` (R37) -/
  fbc : Store QBlock
  /-- `DMX` (R60) -/
  dmx : Memory
  /-- `SEC` (R38) -/
  sec : Memory
  /-- `TS_SAVE` (R39) -/
  tsSave : Marked (List Byte)
  /-- `SCR` (R60) -/
  scr : Memory
  /-- `CFG` (R40) -/
  cfg : Settings
  /-- `PHASE` (R42) -/
  phase : Phase
  /-- `FAULT` (R43) -/
  fault : Bool
  /-- `FCAUSE`, the code of R321 (R43) -/
  fcause : Marked Nat
  /-- `FINFO` (R43) -/
  finfo : Marked Nat
  /-- `TBUILT` (R20, R245) -/
  tbuilt : Bool
  /-- `PCM`; its length is `PCM.len` (R61) -/
  pcm : List Sample
  /-- `RGBA` (R62) -/
  rgba : Memory
  /-- `ISO` (R60) -/
  iso : Memory
  /-- `DATA` (R63) -/
  data : Memory
  /-- `SINK`, append-only (R60) -/
  sink : List Byte
  /-- the model's own: how many SYS.RESET commands have run (log 6) -/
  epoch : Nat
  /-- the model's own: the host's pending actions, oldest first (log 1) -/
  moves : List HostMove
  deriving DecidableEq, Repr

/-- Reasons a step can stop with a fault of the model: none. Every fault of the spec is taken by the machine and leads
to a next state (R325), so this type is empty (log 35). -/
inductive Fault where
  deriving DecidableEq, Repr

/-- The pieces of state whose reading before any write since reset R46 makes a refusal. -/
inductive Item where
  | cfgFormat | cfgFrequency | cfgChannels | cfgBits | cfgFile | cfgChannel | cfgInterleave | cfgAlignment | cfgLoop
  | cfgWidth | cfgHeight
  | mb | fb | fbc | sec
  deriving DecidableEq, Repr

/-- Why a step is refused: each is a defect of the caller, never a behaviour of the hardware. -/
inductive Refusal where
  /-- an instruction without a meaning; raised by no arm of `exec`, safe -/
  | notModelled (mnemonic : String)
  /-- a command reads an item that nothing has written since reset; raised by every command that reads the item (R46,
  R220, U1), safe: the spec says to refuse it -/
  | unwritten (item : Item)
  /-- the host writes what R41, R332 and U13 do not let it write, or an address its buffer does not have (R60); raised by `hostAct`, safe -/
  | hostWrite (move : HostMove)
  /-- the operand record does not have the operands of R91; raised by `runCommand`, safe: no rule gives such a command a
  meaning -/
  | operandRecord (opcode given : Nat)
  deriving DecidableEq, Repr

/-- A channel as AD.RESET leaves it (R151, R46). -/
def Channel.zero : Channel := ⟨0, 0, 0⟩

/-- `CFG` as reset leaves it: no field written (R40, R46; log 3). -/
def Settings.atReset : Settings where
  format := .atReset .xa
  frequency := .atReset 0
  channels := .atReset 0
  bits := .atReset 0
  file := .atReset 0
  channel := .atReset 0
  interleave := .atReset 0
  alignment := .atReset 0
  loop := .atReset 0
  width := .atReset 0
  height := .atReset 0

/-- The state right after reset under a configuration (R46, R350), the host's buffers empty. -/
def State.resetOf (c : Config) : State where
  ch := []
  cand := .atReset ⟨0, 0, 0, 0, List.replicate c.nsamp 0⟩
  best := .atReset ⟨none, 0, 0⟩
  adHdr := .atReset 0
  adMse := .atReset 0
  adMin := .atReset 0
  bwAcc := 0
  bwLeft := c.accBits
  out := []
  fcWords := 0
  fcQscale := c.qscale
  fcFrameIndex := c.firstFrame
  mb := .atReset []
  fb := []
  fbc := []
  dmx := ⟨c.nchunk * c.slotBytes, []⟩
  sec := ⟨c.sectorBytes, []⟩
  tsSave := .atReset []
  scr := ⟨c.nsamp, []⟩
  cfg := .atReset
  phase := .init
  fault := false
  fcause := .atReset 0
  finfo := .atReset 0
  tbuilt := false
  pcm := []
  rgba := ⟨0, []⟩
  iso := ⟨0, []⟩
  data := ⟨0, []⟩
  sink := []
  epoch := 0
  moves := []

/-- The machine right after reset (R46, R350). -/
def State.reset : State := State.resetOf Config.hw

end Sys2Proof.Machine
end

