-- ==== Sys2Proof/Machine/Ops.lean ====
section
/-! DEFINITION. The named operations the commands share: sparse arrays and byte buffers, sequencing, taking a fault
(spec/60_exceptions.md R325), leaving FAULTED (R328, R350), reading marked registers (spec/10_state.md R46), the bytes
of each buffer, and multi-byte fields. -/

namespace Sys2Proof.Machine

/-! ## Sparse arrays -/

section
variable {α : Type}

/-- The value listed at an index. -/
def Store.lookup : Store α → Nat → Option α
  | [], _ => none
  | (k, v) :: rest, i => if k = i then some v else Store.lookup rest i

/-- Values at consecutive indexes from `k` on. -/
def Store.indexed : Nat → List α → Store α
  | _, [] => []
  | k, v :: vs => (k, v) :: Store.indexed (k + 1) vs

/-- Write consecutive values from index `k` on. -/
def Store.putList (st : Store α) (k : Nat) (vs : List α) : Store α :=
  st.filter (fun p => decide (p.1 < k)) ++ Store.indexed k vs ++ st.filter (fun p => decide (k + vs.length ≤ p.1))

/-- Write one value. -/
def Store.put (st : Store α) (k : Nat) (v : α) : Store α := Store.putList st k [v]

/-- Take an index out of the list. -/
def Store.erase (st : Store α) (k : Nat) : Store α := st.filter (fun p => decide (p.1 ≠ k))

/-- The canonical form: indexes strictly rising. -/
abbrev Store.wf (st : Store α) : Prop := st.Pairwise (fun p q => p.1 < q.1)

end

/-! ## Byte buffers (R60) -/

/-- The byte something wrote at an address, if anything did. -/
def Memory.read? (m : Memory) (a : Nat) : Option Byte := Store.lookup m.cells a

/-- `MemWrite` of consecutive bytes (R15). -/
def Memory.writeList (m : Memory) (a : Nat) (bs : List Byte) : Memory := ⟨m.size, Store.putList m.cells a bs⟩

/-- `MemWrite` of one byte (R15). -/
def Memory.write (m : Memory) (a : Nat) (b : Byte) : Memory := m.writeList a [b]

/-- A write to a buffer whose unlisted addresses read 0 (`DATA`, U15): writing 0 takes the address out of the list. -/
def Memory.writeZ (m : Memory) (a : Nat) (b : Byte) : Memory :=
  if b = 0 then ⟨m.size, Store.erase m.cells a⟩ else m.write a b

/-- The canonical form: addresses strictly rising and inside the buffer. -/
abbrev Memory.wf (m : Memory) : Prop := Store.wf m.cells ∧ ∀ p ∈ m.cells, p.1 < m.size

/-- The canonical form of a buffer whose unlisted addresses read 0: besides, no listed 0. -/
abbrev Memory.wfZ (m : Memory) : Prop := m.wf ∧ ∀ p ∈ m.cells, p.2 ≠ 0

/-- A buffer the host declares and fills (R352). -/
def Memory.filled (bs : List Byte) : Memory := ⟨bs.length, Store.indexed 0 bs⟩

/-- The same for a buffer whose unlisted addresses read 0. -/
def Memory.filledZ (bs : List Byte) : Memory :=
  ⟨bs.length, (Store.indexed 0 bs).filter (fun p => decide (p.2 ≠ 0))⟩

/-! ## Outcomes and sequencing -/

/-- What a command answers. -/
abbrev Result := Host.Outcome State Fault Refusal

/-- Do `f` after `r`, unless `r` left the block faulted: a fault in an inner step ends the command there (R219, R325). -/
def andThen (r : Result) (f : State → Result) : Result :=
  match r with
  | .next s => if s.fault then .next s else f s
  | .fault e => .fault e
  | .refused e => .refused e

/-- `for x in xs: f x`, ending at the first fault (R15, R325). -/
def forEach {α : Type} : List α → (α → State → Result) → State → Result
  | [], _, s => .next s
  | x :: xs, f, s => andThen (f x s) (forEach xs f)

/-- While `FAULT` is 1 a command is refused: it changes no state at all (R325). -/
def unlessFaulted (s : State) (r : Result) : Result := if s.fault then .next s else r

/-! ## Taking a fault, and the way out -/

/-- The eleven causes (R321). -/
inductive Cause where
  | configInvalid | bitWriterRange | bitWriterWidth | outputOverrun | videoDimension | addressRange | adpcmOperand
  | illegalCommand | phaseViolation | tablesNotBuilt | frameOverflow
  deriving DecidableEq, Repr

/-- The code of a cause (R321). -/
def Cause.code : Cause → Nat
  | .configInvalid => 1
  | .bitWriterRange => 2
  | .bitWriterWidth => 3
  | .outputOverrun => 4
  | .videoDimension => 5
  | .addressRange => 6
  | .adpcmOperand => 7
  | .illegalCommand => 8
  | .phaseViolation => 9
  | .tablesNotBuilt => 10
  | .frameOverflow => 11

/-- Fault entry (R325): `FAULT`, `FCAUSE`, `FINFO` and `PHASE` are written, and nothing else. -/
def State.fail (s : State) (cause : Cause) (info : Nat) : State :=
  { s with fault := true, fcause := .put cause.code, finfo := .put info, phase := .faulted }

/-- `raise <Fault>(info)` (R15): the fault is taken and the command ends. -/
def raise (cause : Cause) (info : Nat) (s : State) : Result := .next (s.fail cause info)

/-- The cause a code names (R321). -/
def Cause.ofCode (n : Nat) : Cause :=
  ([.configInvalid, .bitWriterRange, .bitWriterWidth, .outputOverrun, .videoDimension, .addressRange, .adpcmOperand,
    .illegalCommand, .phaseViolation, .tablesNotBuilt, .frameOverflow].find? fun x => x.code == n).getD .outputOverrun

/-- `r`, run from `s`, as one command that R323 does not list as a composite: a fault inside it is taken in `s`, with
the inner cause. `FINFO` of OutputOverrun is `OUT.len` (R321), which is then that of `s` (log 22). -/
def allOrNothing (s : State) (r : Result) : Result :=
  match r with
  | .next t =>
    if t.fault then
      let cause := Cause.ofCode t.fcause.val
      raise cause (if cause = .outputOverrun then s.out.length else t.finfo.val) s
    else .next t
  | .fault e => .fault e
  | .refused e => .refused e

/-- The way out of FAULTED, and the effect of SYS.RESET (R328, R350): every piece of the block's state takes its reset
value; the host's buffers, `SINK` and the host's pending actions are not touched. -/
def State.resetKeepingHost (c : Config) (s : State) : State :=
  { State.resetOf c with
    pcm := s.pcm, rgba := s.rgba, iso := s.iso, data := s.data, sink := s.sink
    epoch := s.epoch + 1, moves := s.moves }

/-- The value `FINFO` records for a phase (R321). -/
def Phase.code : Phase → Nat
  | .init => 0
  | .encoding => 1
  | .finalize => 2
  | .done => 3
  | .faulted => 4

/-- `PHASE <- p`. -/
def State.setPhase (s : State) (p : Phase) : State := { s with phase := p }

/-! ## Marked registers (R46) -/

/-- Read a register, or be refused where nothing has written it since reset (R46, U1). -/
def need {α : Type} (m : Marked α) (item : Item) (k : α → Result) : Result :=
  if m.written then k m.val else .refused (.unwritten item)

/-! ## The bytes of each buffer -/

/-- A byte of `SEC`. One that nothing has written since reset has any value (U16, U17; log 4). -/
def State.secByte (s : State) (a : Nat) : Byte := (s.sec.read? a).getD (Config.freeSecByte s.epoch a)

/-- A byte of `SCR`; an unwritten one has any value (log 5). -/
def State.scrByte (s : State) (a : Nat) : Byte := (s.scr.read? a).getD (Config.freeScrByte s.epoch a)

/-- A byte of `DMX`; `DMX` is read only after VD.DEMUX has written all of it (log 5). -/
def State.dmxByte (s : State) (a : Nat) : Byte := (s.dmx.read? a).getD (Config.freeDmxByte s.epoch a)

/-- A byte of `DATA`; one that nothing has written is 0 (U15; log 7). -/
def State.dataByte (s : State) (a : Nat) : Byte := (s.data.read? a).getD 0

/-- A byte of `RGBA`; one declared and not filled has any value (log 8). -/
def State.rgbaByte (s : State) (a : Nat) : Byte := (s.rgba.read? a).getD (Config.freeRgbaByte a)

/-- A byte of `ISO`; one declared and not filled has any value (log 8). -/
def State.isoByte (s : State) (a : Nat) : Byte := (s.iso.read? a).getD (Config.freeIsoByte a)

/-- `n` consecutive bytes of a buffer read byte by byte. -/
def bytesOf (read : Nat → Byte) (a n : Nat) : List Byte := (List.range n).map fun i => read (a + i)

/-- `SEC[a ..] <- bs`. -/
def State.putSec (s : State) (a : Nat) (bs : List Byte) : State := { s with sec := s.sec.writeList a bs }

/-- Append bytes to `SINK` (R60, R259). -/
def State.emit (s : State) (bs : List Byte) : State := { s with sink := s.sink ++ bs }

/-- Refuse where nothing has written `SEC` since reset (U1; log 4). -/
def needSec (s : State) (r : Result) : Result :=
  if s.sec.cells.isEmpty then .refused (.unwritten .sec) else r

/-- The buffer AD.ENCODE writes its nibbles to: `DATA`, or inside an MX command `SEC` (R285) or `SCR` (R289). -/
inductive Target where
  | data | sec | scr
  deriving DecidableEq, Repr

/-- The length of a target buffer. -/
def State.targetSize (s : State) : Target → Nat
  | .data => s.data.size
  | .sec => s.sec.size
  | .scr => s.scr.size

/-- A byte of a target buffer. -/
def State.targetByte (s : State) : Target → Nat → Byte
  | .data => s.dataByte
  | .sec => s.secByte
  | .scr => s.scrByte

/-- Write a byte of a target buffer. -/
def State.putTarget (s : State) (t : Target) (a : Nat) (b : Byte) : State :=
  match t with
  | .data => { s with data := s.data.writeZ a b }
  | .sec => { s with sec := s.sec.write a b }
  | .scr => { s with scr := s.scr.write a b }

/-! ## The channel bank (R21) -/

/-- `CH[c]`. -/
def State.channel (s : State) (c : Nat) : Channel := (Store.lookup s.ch c).getD Channel.zero

/-- `CH[c] <- v`; the zero channel is not listed. -/
def State.putChannel (s : State) (c : Nat) (v : Channel) : State :=
  { s with ch := if v = Channel.zero then Store.erase s.ch c else Store.put s.ch c v }

/-! ## Multi-byte fields (R65, R67) -/

/-- A field of `width` bytes, low byte first. A value that does not fit its field is not given by the spec: its bytes
are free (log 28). -/
def leField (width value : Nat) : List Byte :=
  (List.range width).map fun i =>
    if value < 256 ^ width then BitVec.ofNat 8 (value / 256 ^ i) else Config.freeFieldByte width value i

/-- The same, high byte first. -/
def beField (width value : Nat) : List Byte := (leField width value).reverse

/-- One byte that holds a setting (R107). -/
def byteField (value : Nat) : Byte := if value < 256 then BitVec.ofNat 8 value else Config.freeFieldByte 1 value 0

/-! ## Counts -/

/-- How many whole chunks of `b` items `a` items hold: none hold none (R324), and of `b = 0` the spec gives no number
(log 29). -/
def countDiv (a b : Nat) : Nat := if a = 0 then 0 else if b = 0 then Config.freeCount a else a / b

/-- How many chunks of `b` items cover `a` items: none cover none (R283, R324), and of `b = 0` the spec gives no number
(log 29). -/
def ceilDiv (a b : Nat) : Nat := if a = 0 then 0 else if b = 0 then Config.freeCount a else (a + b - 1) / b

end Sys2Proof.Machine
end

