-- ==== Sys2Proof/Machine/Flags.lean ====
section
/-! DEFINITION. The block has no condition codes (spec/10_state.md R43). Its flags are the fault registers (Ops.lean)
and the flag bytes of the output formats, computed here: the ADPCM header byte (R100), the SPU flag byte (R101, R292),
the submode byte (R108, R242) and the coding-info byte (R109, R242); and the check of `CFG` (R322). -/

namespace Sys2Proof.Machine

/-- The ADPCM header byte `(shift & 0xF) | (filter << 4)` (R100). -/
def headerByte (f r : Nat) : Byte := BitVec.ofNat 8 ((r &&& 0xF) ||| (f <<< 4))

/-- The SPU flag byte (R101, R292): bit 2 loop start, bit 0 loop end, bit 1 loop repeat. -/
def spuFlags (first last loop : Bool) : Byte :=
  (if first && loop then 4 else 0) ||| (if last then 1 else 0) ||| (if last && loop then 2 else 0)

/-- The kind of a sector (R242). -/
inductive SectorKind where
  | audio | video | data
  deriving DecidableEq, Repr

/-- `submode_of(kind, last)` (R242). -/
def submodeOf (c : Config) (kind : SectorKind) (last : Bool) : Nat :=
  (match kind with
    | .audio => c.smAudio
    | .video => c.smVideo
    | .data => c.smData) ||| (if last then c.smEnd else 0)

/-- A two-bit field of the coding-info byte (R109): 0 for the first of its two settings, 1 for the second. R109 gives no
code for any other setting, which MX.XA reaches under the SPU formats (log 32): its bits are free (log 42). -/
def codingField (pos first second value : Nat) : Nat :=
  (if value = first then 0 else if value = second then 1 else (Config.freeCoding pos value).toNat) <<< pos

/-- `coding_of(audio)` (R109, R242): the fields of channels, rate and depth; the unused bits are 0 (U19). -/
def codingOf (c : Config) (channels frequency bits : Nat) : Nat :=
  codingField c.codingBits.stereo 1 2 channels ||| codingField c.codingBits.rate 37800 18900 frequency |||
    codingField c.codingBits.depth 4 8 bits

/-! ## `cfg_valid` (R322)

The clauses are evaluated in order and each reads only the fields it names, so a field the format does not read may
stay unwritten (R352). The continuation gets `none` where every clause holds and otherwise the number of the first
clause that fails. -/

/-- Clause 1: the selector is one of the eight. -/
def formatKnown : Format → Bool
  | .other _ => false
  | _ => true

/-- Clause 3: the channel counts of each format. -/
def channelsValid (f : Format) (n : Nat) : Bool :=
  match f with
  | .spu | .vag => n == 1
  | .xa | .xacd | .str2 | .str2cd => n == 1 || n == 2
  | .spui | .vagi => decide (1 ≤ n)
  | .other _ => false

/-- Clause 4: the sample rates of each format. -/
def frequencyValid (c : Config) (f : Format) (n : Nat) : Bool :=
  match f with
  | .xa | .xacd | .str2 | .str2cd => decide (0 < n) && c.xaFreqs.contains n
  | _ => decide (0 < n)

/-- The format emits sectors: it reads `file` and `channel` (R285, R293), and another reads `loop` (R292). -/
def Format.sectored : Format → Bool
  | .xa | .xacd | .str2 | .str2cd => true
  | .spu | .spui | .vag | .vagi | .other _ => false

/-- Check one field. One that the format reads must be written (R46); one that it does not read may stay unwritten
(R352), and is checked where it is written (log 31). -/
def checkSetting (read : Bool) (m : Marked Nat) (item : Item) (ok : Nat → Bool) (yes no : Result) : Result :=
  if m.written then if ok m.val then yes else no
  else if read then .refused (.unwritten item)
  else yes

/-- Clause 7, with its three fields. -/
def cfgValidLast (g : Settings) (f : Format) (k : Option Nat → Result) : Result :=
  checkSetting f.sectored g.file .cfgFile (fun v => decide (v ≤ 255))
    (checkSetting f.sectored g.channel .cfgChannel (fun v => decide (v ≤ 255))
      (checkSetting (!f.sectored) g.loop .cfgLoop (fun v => decide (v ≤ 1)) (k none) (k (some 7)))
      (k (some 7)))
    (k (some 7))

/-- Clause 6, for the video formats. -/
def cfgValidVideo (g : Settings) (f : Format) (k : Option Nat → Result) : Result :=
  need g.width .cfgWidth fun w =>
  if 0 < w ∧ w % 16 = 0 then
    need g.height .cfgHeight fun h => if 0 < h ∧ h % 16 = 0 then cfgValidLast g f k else k (some 6)
  else k (some 6)

/-- Clause 5, for the interleaved formats. -/
def cfgValidInterleave (g : Settings) (f : Format) (k : Option Nat → Result) : Result :=
  need g.interleave .cfgInterleave fun il =>
  if 0 < il ∧ il % 16 = 0 then
    if f = .vagi then
      need g.alignment .cfgAlignment fun al => if 0 < al then cfgValidLast g f k else k (some 5)
    else cfgValidLast g f k
  else k (some 5)

/-- Clauses 5 to 7 of a format. -/
def cfgValidRest (g : Settings) (f : Format) (k : Option Nat → Result) : Result :=
  match f with
  | .spui | .vagi => cfgValidInterleave g f k
  | .str2 | .str2cd => cfgValidVideo g f k
  | _ => cfgValidLast g f k

/-- `cfg_valid(CFG)` (R322). -/
def cfgValid (c : Config) (g : Settings) (k : Option Nat → Result) : Result :=
  need g.format .cfgFormat fun f =>
  if formatKnown f then
    need g.bits .cfgBits fun bits =>
    if bits = 4 then
      need g.channels .cfgChannels fun ch =>
      if channelsValid f ch then
        need g.frequency .cfgFrequency fun hz =>
        if frequencyValid c f hz then cfgValidRest g f k else k (some 4)
      else k (some 3)
    else k (some 2)
  else k (some 1)

end Sys2Proof.Machine
end

