-- ==== Sys2Proof/Machine/Operands.lean ====
section
/-! DEFINITION. The operand forms: the 28 samples a block reads (spec/41_adpcm.md R152), the checks of the AD operands
(R151, R155, R159, R166), the lane of nibbles in a byte (spec/20_memory.md R63), the geometry of a frame and its pixels
(spec/42_dct_video.md R192, R193; spec/20_memory.md R62). -/

namespace Sys2Proof.Machine

/-! ## ADPCM operands -/

/-- Sample `i` of a block: `PCM[base + i*stride]`, 0 at or beyond `PCM.len` (R152, R61). -/
def State.sample (s : State) (base stride i : Nat) : Int := (s.pcm.getD (base + i * stride) 0).toInt

/-- The 28 samples `S[0..27]` (R152). -/
def State.samples (s : State) (c : Config) (base stride : Nat) : List Int :=
  (List.range c.nsamp).map (s.sample base stride)

/-- The channel check of every AD command: `c < AD_NCH`, the `channels` setting (R11, R21; log 30). -/
def checkChannel (ch : Nat) (s : State) (r : Result) : Result :=
  need s.cfg.channels .cfgChannels fun n => if n ≤ ch then raise .adpcmOperand 0 s else r

/-- The checks of AD.MINSHIFT and AD.TRIAL, `FINFO` the operand's position (R155, R321; log 19). -/
def checkFilter (c : Config) (ch stride f : Nat) (s : State) (r : Result) : Result :=
  checkChannel ch s <|
    if c.nfilt ≤ f then raise .adpcmOperand 3 s
    else if stride < 1 then raise .adpcmOperand 2 s
    else r

/-- The addresses of the 28 nibbles (R63). -/
def laneAddrs (c : Config) (dbase dataPitch : Nat) : List Nat := (List.range c.nsamp).map fun i => dbase + i * dataPitch

/-- The checks of AD.ENCODE (R166; log 19): operands, then the addresses. -/
def checkEncode (c : Config) (t : Target) (ch stride filterCount dbase dataShift dataPitch : Nat) (s : State)
    (r : Result) : Result :=
  checkChannel ch s <|
    if filterCount < 1 ∨ c.nfilt < filterCount then raise .adpcmOperand 3 s
    else if dataShift ≠ 0 ∧ dataShift ≠ 4 then raise .adpcmOperand 5 s
    else if stride < 1 then raise .adpcmOperand 2 s
    else if dataPitch < 1 then raise .adpcmOperand 6 s
    else match (laneAddrs c dbase dataPitch).find? (fun a => decide (s.targetSize t ≤ a)) with
      | some a => raise .addressRange a s
      | none => r

/-- A byte with one nibble replaced, the other kept (R63): bits `dataShift + 3 : dataShift`. -/
def withNibble (old : Byte) (dataShift : Nat) (nib : Nibble) : Byte :=
  (old &&& ~~~(0xF#8 <<< dataShift)) ||| (nib.setWidth 8 <<< dataShift)

/-! ## Video geometry -/

/-- Macroblock columns or rows of a dimension (R192). -/
def macroblocks (size : Nat) : Nat := size / 16

/-- `nmb` (R192). -/
def nmb (w h : Nat) : Nat := macroblocks w * macroblocks h

/-- The index of block `b` of macroblock `m` in `FB` and `FBC`. -/
def blockKey (m b : Nat) : Nat := 6 * m + b

/-- The address in `RGBA` of the R byte of pixel (x, y) of frame `n` (R62). -/
def pixelAddr (w h n x y : Nat) : Nat := 4 * ((n * h + y) * w + x)

/-- The bytes R, G, B of a pixel; the A byte is not read (R62). -/
def State.pixel (s : State) (w h n x y : Nat) : Nat × Nat × Nat :=
  let a := pixelAddr w h n x y
  ((s.rgbaByte a).toNat, (s.rgbaByte (a + 1)).toNat, (s.rgbaByte (a + 2)).toNat)

/-- Column of the pixel under element `k` of luma block `b` (R193). -/
def lumaX (mx b k : Nat) : Nat := 16 * mx + 8 * ((b - 2) % 2) + k % 8

/-- Row of the pixel under element `k` of luma block `b` (R193). -/
def lumaY (my b k : Nat) : Nat := 16 * my + 8 * ((b - 2) / 2) + k / 8

/-- Componentwise sum of the four pixels under element `k` of a chroma block (R193, R194). -/
def State.pixelSum (s : State) (w h n mx my k : Nat) : Nat × Nat × Nat :=
  let x := 16 * mx + 2 * (k % 8)
  let y := 16 * my + 2 * (k / 8)
  let p := s.pixel w h n x y
  let q := s.pixel w h n (x + 1) y
  let u := s.pixel w h n x (y + 1)
  let v := s.pixel w h n (x + 1) (y + 1)
  (p.1 + q.1 + u.1 + v.1, p.2.1 + q.2.1 + u.2.1 + v.2.1, p.2.2 + q.2.2 + u.2.2 + v.2.2)

/-- The first address beyond frame `n`: the frame lies inside `RGBA` if it is at most the length (R62, R194). -/
def frameEnd (w h n : Nat) : Nat := 4 * ((n + 1) * h * w)

end Sys2Proof.Machine
end

