-- ==== Sys2Proof/Machine/Adpcm.lean ====
section
/-! DEFINITION. The ADPCM Encoder: AD.RESET, AD.MINSHIFT, AD.TRIAL, AD.ENCODE (spec/41_adpcm.md). -/

namespace Sys2Proof.Machine

/-- `predict(f, p1, p2)` (R153). -/
def predict (c : Config) (f : Nat) (p1 p2 : Int) : Int :=
  (c.k1.getD f 0 * p1 + c.k2.getD f 0 * p2 + (2 : Int) ^ (c.predShift - 1)) >>> c.predShift

/-- The rounded, clamped quotient of a residual (R158). -/
def quantize (r : Nat) (e : Int) : Int :=
  clamp (if r = 0 then e else (e + (2 : Int) ^ (r - 1)) >>> r) (-8) 7

/-- What a decoder rebuilds from a quotient and a prediction (R158). -/
def rebuild (r : Nat) (q p : Int) : Int := clamp (q * (2 : Int) ^ r + p) (-32768) 32767

/-- One sample step (R158): the quotient and the reconstructed sample. -/
def sampleStep (c : Config) (f r : Nat) (x p1 p2 : Int) : Int × Int :=
  let p := predict c f p1 p2
  let q := quantize r (x - p)
  (q, rebuild r q p)

/-! ## AD.MINSHIFT -/

/-- The running extremes of the residuals with the input samples as history (R155). -/
def residualRange (c : Config) (f : Nat) : List Int → Int → Int → Int → Int → Int × Int
  | [], _, _, emin, emax => (emin, emax)
  | x :: xs, p1, p2, emin, emax =>
    let e := x - predict c f p1 p2
    residualRange c f xs x p1 (min emin e) (max emax e)

/-- The fit test of a shift (R155): the floor shift, no rounding term. -/
def fitsShift (emin emax : Int) (m : Nat) : Bool := decide (emax >>> m ≤ 7) && decide (-8 ≤ emin >>> m)

/-- The least shift below 12 that fits, else 12 (R155). -/
def leastShift (c : Config) (emin emax : Int) : Nat :=
  ((List.range c.shiftMax).find? (fitsShift emin emax)).getD c.shiftMax

/-- The result of AD.MINSHIFT for given samples and channel state (R155). -/
def minShiftOf (c : Config) (v : Channel) (xs : List Int) (f : Nat) : Nat :=
  let e := residualRange c f xs v.prev1.toInt v.prev2.toInt 0 0
  leastShift c e.1 e.2

/-- AD.MINSHIFT (R155). -/
def adMinshift (c : Config) (ch base stride f : Nat) (s : State) : Result :=
  checkFilter c ch stride f s <|
    .next { s with adMin := .put (minShiftOf c (s.channel ch) (s.samples c base stride) f) }

/-! ## AD.TRIAL -/

/-- The running state of a trial: the last two reconstructed samples, the cost, the nibbles so far. -/
structure Trial where
  p1 : Int
  p2 : Int
  cost : Nat
  nibs : List Nibble
  deriving DecidableEq, Repr

/-- `CAND.qerr` before sample `i` (R160): no step updates the channel's error under AD_QERR_ENABLE = false; under true
the spec gives no update and the value is free (log 36). -/
def carriedError (c : Config) (qerr : BitVec 32) (i : Nat) : BitVec 32 :=
  if c.qerrEnable then Config.freeCarry qerr i else qerr

/-- One sample of a trial (R159, R160, R161): the input is the sample plus the carried error. -/
def trialStep (c : Config) (f r : Nat) (qerr : BitVec 32) (t : Trial) (sample : Int) : Trial :=
  let x := sample + (carriedError c qerr t.nibs.length).toInt
  let y := sampleStep c f r x t.p1 t.p2
  ⟨y.2, t.p1, t.cost + ((y.2 - x) * (y.2 - x)).toNat, t.nibs ++ [BitVec.ofInt 4 y.1]⟩

/-- A whole trial over the samples of a block (R159). -/
def trialOf (c : Config) (v : Channel) (xs : List Int) (f r : Nat) : Trial :=
  xs.foldl (trialStep c f r v.qerr) ⟨v.prev1.toInt, v.prev2.toInt, 0, []⟩

/-- The registers of `CAND` after a trial (R26, R159). -/
def candOf (c : Config) (v : Channel) (xs : List Int) (f r : Nat) : Cand :=
  let t := trialOf c v xs f r
  ⟨carriedError c v.qerr t.nibs.length, BitVec.ofInt 16 t.p1, BitVec.ofInt 16 t.p2, BitVec.ofNat 64 t.cost, t.nibs⟩

/-- AD.TRIAL (R159). -/
def adTrial (c : Config) (ch base stride f r : Nat) (s : State) : Result :=
  checkFilter c ch stride f s <|
    if c.shiftMax < r then raise .adpcmOperand 4 s
    else .next { s with cand := .put (candOf c (s.channel ch) (s.samples c base stride) f r) }

/-! ## AD.ENCODE -/

/-- The shift window of a minimum shift (R165). -/
def shiftWindow (c : Config) (m : Nat) : List Nat :=
  (List.range (min c.shiftMax (m + 1) + 1 - (m - 1))).map fun i => (m - 1) + i

/-- The (filter, shift) pairs in the order of the search (R166, R167). -/
def searchPairs (c : Config) (v : Channel) (xs : List Int) (filterCount : Nat) : List (Nat × Nat) :=
  (List.range filterCount).flatMap fun f => (shiftWindow c (minShiftOf c v xs f)).map fun r => (f, r)

/-- A cost below `BEST.mse` (R167): every cost is below +infinity. -/
def beats (mse : BitVec 64) (b : Best) : Bool :=
  match b.mse with
  | none => true
  | some m => decide (mse < m)

/-- One comparison of the search (R166, R167): the best is replaced only by a strictly lower cost. -/
def searchStep (c : Config) (v : Channel) (xs : List Int) (b : Best) (p : Nat × Nat) : Best :=
  let mse := (candOf c v xs p.1 p.2).mse
  if beats mse b then ⟨some mse, p.1, p.2⟩ else b

/-- `BEST` after the search (R166, R167). -/
def searchBest (c : Config) (v : Channel) (xs : List Int) (filterCount : Nat) : Best :=
  (searchPairs c v xs filterCount).foldl (searchStep c v xs) ⟨none, 0, 0⟩

/-- Commit one nibble at its lane (R63, R166). -/
def State.putNibble (t : Target) (dataShift : Nat) (s : State) (p : Nat × Nibble) : State :=
  s.putTarget t p.1 (withNibble (s.targetByte t p.1) dataShift p.2)

/-- Commit the 28 nibbles (R166). -/
def State.putNibbles (c : Config) (s : State) (t : Target) (dbase dataShift dataPitch : Nat) (nibs : List Nibble) :
    State :=
  ((laneAddrs c dbase dataPitch).zip nibs).foldl (State.putNibble t dataShift) s

/-- The registers AD.ENCODE commits (R166, R168): `CH[c].prev1`, `CH[c].prev2`, `AD_MSE`, `AD_HDR`, and the scratch
`AD_MIN`, `CAND`, `BEST` it leaves. -/
def State.commitBlock (s : State) (ch : Nat) (v : Channel) (lastMin : Nat) (b : Best) (cand : Cand) : State :=
  { s.putChannel ch { v with prev1 := cand.prev1, prev2 := cand.prev2 } with
    cand := .put cand
    best := .put b
    adMin := .put lastMin
    adMse := .put cand.mse
    adHdr := .put (headerByte b.f b.r) }

/-- AD.ENCODE into a target buffer (R166). -/
def adEncode (c : Config) (t : Target) (ch base stride filterCount dbase dataShift dataPitch : Nat) (s : State) :
    Result :=
  checkEncode c t ch stride filterCount dbase dataShift dataPitch s <|
    let v := s.channel ch
    let xs := s.samples c base stride
    let b := searchBest c v xs filterCount
    let cand := candOf c v xs b.f b.r
    .next ((s.putNibbles c t dbase dataShift dataPitch cand.nib).commitBlock ch v
      (minShiftOf c v xs (filterCount - 1)) b cand)

/-- AD.RESET (R151). -/
def adReset (ch : Nat) (s : State) : Result := checkChannel ch s (.next (s.putChannel ch Channel.zero))

/-! ## The reference reconstruction (R171)

Not an operation of the block: it states the round trip only. -/

/-- The decoder of R171 over the nibbles of a block. -/
def decodeBlock (c : Config) (f r : Nat) : List Nibble → Int → Int → List Int
  | [], _, _ => []
  | n :: ns, d1, d2 =>
    let y := rebuild r n.toInt (predict c f d1 d2)
    y :: decodeBlock c f r ns y d1

/-- The meaning of AD.RESET. -/
def execAdReset (c : Nat) (s : State) : Result := unlessFaulted s (adReset c s)

/-- The meaning of AD.MINSHIFT. -/
def execAdMinshift (c base stride f : Nat) (s : State) : Result :=
  unlessFaulted s (adMinshift Config.hw c base stride f s)

/-- The meaning of AD.TRIAL. -/
def execAdTrial (c base stride f r : Nat) (s : State) : Result :=
  unlessFaulted s (adTrial Config.hw c base stride f r s)

/-- The meaning of AD.ENCODE: the target is `DATA`. -/
def execAdEncode (c base stride filterCount dbase dataShift dataPitch : Nat) (s : State) : Result :=
  unlessFaulted s (adEncode Config.hw .data c base stride filterCount dbase dataShift dataPitch s)

end Sys2Proof.Machine
end

