-- ==== Sys2Proof/Machine/BitWriter.lean ====
section
/-! DEFINITION. The Bit Writer: BW.WRITE and BW.FLUSH (spec/40_bit_writer.md). -/

namespace Sys2Proof.Machine

/-- Appending one more word would pass OUT_CAP (R133). -/
def outFull (c : Config) (s : State) : Bool :=
  match c.outCap with
  | none => false
  | some cap => decide (cap < s.out.length + 2)

/-- The effect of `flush_word` where there is room (R133): the low byte, then the high byte; then an empty
accumulator. -/
def State.pushWord (c : Config) (s : State) : State :=
  { s with out := s.out ++ [s.bwAcc.setWidth 8, (s.bwAcc >>> 8).setWidth 8], bwAcc := 0, bwLeft := c.accBits }

/-- Place a field that fits into the free bits of the accumulator (R131, the last two lines). -/
def State.placeBits (s : State) (n value : Nat) : State :=
  { s with bwAcc := s.bwAcc ||| BitVec.ofNat 16 (value <<< (s.bwLeft - n)), bwLeft := s.bwLeft - n }

/-- Fill the accumulator with the top bits of a field that does not fit (R131, the first line of the loop). -/
def State.fillBits (s : State) (n value : Nat) : State :=
  { s with bwAcc := s.bwAcc ||| BitVec.ofNat 16 (value >>> (n - s.bwLeft)), bwLeft := 0 }

/-- BW.WRITE (R131). With `n <= 16` the loop runs at most once, since a flush leaves 16 free bits. Every check comes
before the first state change (R323; log 21). -/
def bwWrite (c : Config) (n value : Nat) (s : State) : Result :=
  if c.bwNmax < n then raise .bitWriterWidth n s
  else if 2 ^ n ≤ value then raise .bitWriterRange value s
  else if n ≤ s.bwLeft then .next (s.placeBits n value)
  else if outFull c s then raise .outputOverrun s.out.length s
  else .next (((s.fillBits n value).pushWord c).placeBits (n - s.bwLeft) (value % 2 ^ (n - s.bwLeft)))

/-- BW.FLUSH (R135). -/
def bwFlush (c : Config) (s : State) : Result :=
  if s.bwLeft < c.accBits then
    if outFull c s then raise .outputOverrun s.out.length s else .next (s.pushWord c)
  else .next s

/-- The meaning of BW.WRITE. -/
def execBwWrite (n value : Nat) (s : State) : Result := unlessFaulted s (bwWrite Config.hw n value s)

/-- The meaning of BW.FLUSH. -/
def execBwFlush (s : State) : Result := unlessFaulted s (bwFlush Config.hw s)

end Sys2Proof.Machine
end

