-- ==== Sys2Proof/Machine/Tables.lean ====
section
/-! DEFINITION. The constant tables of the Sector Assembler and the field arithmetic they define
(spec/43_sector.md R247 to R252): constants with the contents SC.TABLES builds, as R245 allows (log 10). -/

namespace Sys2Proof.Machine

/-- One of the eight steps of R247. -/
def edcBit (c : Config) (e : BitVec 32) : BitVec 32 :=
  if c.edcReflected then (e >>> 1) ^^^ (if e &&& 1 = 1 then c.edcPoly else 0)
  else (e <<< 1) ^^^ (if e.msb then c.edcPoly else 0)

/-- `EDC_LUT[i]` (R247). -/
def edcLut (c : Config) (i : BitVec 32) : BitVec 32 := (edcBit c)^[8] (if c.edcReflected then i else i <<< 24)

/-- One byte of the accumulator (R248). The most-significant-bit-first form under EDC_REFLECTED = false, which this
hardware does not take, is the model's (log 36). -/
def edcByte (c : Config) (e : BitVec 32) (b : Byte) : BitVec 32 :=
  if c.edcReflected then (e >>> 8) ^^^ edcLut c ((e ^^^ b.setWidth 32) &&& 0xFF)
  else (e <<< 8) ^^^ edcLut c ((e >>> 24) ^^^ b.setWidth 32)

/-- `edc(bytes)` (R248). -/
def edc (c : Config) (bs : List Byte) : BitVec 32 := bs.foldl (edcByte c) c.edcInit ^^^ c.edcXorOut

/-- A field element doubled: `x << 1`, reduced by GF_POLY (R250). -/
def gfDouble (c : Config) (x : Nat) : Nat := if 0x100 ≤ 2 * x then (2 * x) ^^^ c.gfPoly else 2 * x

/-- One step of the generator walk: the product of `x` and GF_GEN, which for GF_GEN = 2 is `x` doubled (R250). -/
def gfNext (c : Config) (x : Nat) : Nat :=
  (List.range 8).foldr (fun i e => gfDouble c e ^^^ if c.gfGen.testBit i then x else 0) 0

/-- The walk from `x` on, `n` elements (R250). -/
def gfWalk (c : Config) : Nat → Nat → List Nat
  | 0, _ => []
  | n + 1, x => x :: gfWalk c n (gfNext c x)

/-- The tables of GF(256): `exp` is `GF_EXP[0..254]` (R250), `log` is `GF_LOG` (R251); `GF_LOG[0]` is never read. -/
structure GfTables where
  exp : List Nat
  log : List Nat
  deriving DecidableEq, Repr

/-- The tables as SC.TABLES builds them (R250, R251). -/
def gfTables (c : Config) : GfTables :=
  let e := gfWalk c 255 1
  ⟨e, (List.range 256).map fun x => e.idxOf x⟩

/-- Field multiplication (R251). -/
def gmul (t : GfTables) (a b : Nat) : Nat :=
  if a = 0 ∨ b = 0 then 0 else t.exp.getD ((t.log.getD a 0 + t.log.getD b 0) % 255) 0

/-- Field division by `b`, not 0 (R251). -/
def gdiv (t : GfTables) (a b : Nat) : Nat :=
  if a = 0 then 0 else t.exp.getD ((t.log.getD a 0 + 255 - t.log.getD b 0) % 255) 0

/-- `CX(w)` (R252). -/
def gfCx (t : GfTables) (w : Nat) : Nat := gdiv t (1 ^^^ t.exp.getD w 0) 3

/-- `CY(w)` (R252). -/
def gfCy (t : GfTables) (w : Nat) : Nat := gdiv t (2 ^^^ t.exp.getD w 0) 3

/-- `GF_PROD[j][v]` (R252). -/
def gfProd (t : GfTables) (j : Nat) (v : Byte) : Byte × Byte :=
  (BitVec.ofNat 8 (gmul t v.toNat (gfCx t (44 - j))), BitVec.ofNat 8 (gmul t v.toNat (gfCy t (44 - j))))

end Sys2Proof.Machine
end

