-- ==== Sys2Proof/Machine/Sector.lean ====
section
/-! DEFINITION. The Sector Assembler and the P/Q parity generator: SC.TABLES to SC.EMIT (spec/43_sector.md). -/

namespace Sys2Proof.Machine

/-- SC.TABLES (R245): the tables are constants, so only the built mark changes. -/
def scTables (s : State) : Result := .next { s with tbuilt := true }

/-! ## SC.INIT and SC.STAMP -/

/-- The four subheader bytes (R107, R241). -/
def subheader (file channel submode coding : Nat) : List Byte :=
  [byteField file, byteField channel, byteField submode, byteField coding]

/-- The 24 bytes SC.INIT writes (R241). -/
def initBytes (file channel submode coding : Nat) : List Byte :=
  List.replicate 16 0 ++ subheader file channel submode coding ++ subheader file channel submode coding

/-- SC.INIT (R241; log 20 for `FINFO`). -/
def scInit (submode coding : Nat) (s : State) : Result :=
  if 0xFF < submode then raise .addressRange submode s
  else if 0xFF < coding then raise .addressRange coding s
  else
    need s.cfg.file .cfgFile fun file =>
    need s.cfg.channel .cfgChannel fun channel =>
    .next (s.putSec 0x000 (initBytes file channel submode coding))

/-- `bcd(v)`, `v` below 100 (R118, R243). -/
def bcd (v : Nat) : Byte := BitVec.ofNat 8 (((v / 10) <<< 4) ||| (v % 10))

/-- The 16 bytes SC.STAMP writes for the absolute sector number `a` (R243). -/
def stampBytes (c : Config) (a : Nat) : List Byte :=
  c.sync ++ [bcd (a / 4500), bcd ((a / 75) % 60), bcd (a % 75), c.mode]

/-- SC.STAMP (R243). -/
def scStamp (c : Config) (lba : Nat) (s : State) : Result :=
  if 99 < (lba + c.lbaBase) / 4500 then raise .addressRange lba s
  else .next (s.putSec 0x000 (stampBytes c (lba + c.lbaBase)))

/-! ## SC.EDC -/

/-- The length of the covered range (R248). -/
def edcLength (form : Nat) : Nat := if form = 1 then 0x808 else 0x91C

/-- A 32-bit value, low byte first (R65, R110). -/
def le32 (e : BitVec 32) : List Byte :=
  [e.setWidth 8, (e >>> 8).setWidth 8, (e >>> 16).setWidth 8, (e >>> 24).setWidth 8]

/-- The EDC of the sector (R248). -/
def sectorEdc (c : Config) (form : Nat) (s : State) : BitVec 32 := edc c (bytesOf s.secByte 0x010 (edcLength form))

/-- SC.EDC (R248, R246). -/
def scEdc (c : Config) (form : Nat) (s : State) : Result :=
  if s.tbuilt = false then raise .tablesNotBuilt 0x33 s
  else if form ≠ 1 ∧ form ≠ 2 then raise .addressRange form s
  else needSec s (.next (s.putSec (0x010 + edcLength form) (le32 (sectorEdc c form s))))

/-! ## SC.PQ -/

/-- The sector as SC.PQ reads it: the timestamp bytes, and under PQ_ZERO_MODE the mode byte, read 0 (R256, R258). -/
def zeroedHeader (c : Config) (read : Nat → Byte) (a : Nat) : Byte :=
  if 0x00C ≤ a ∧ a ≤ 0x00E then 0 else if a = 0x00F ∧ c.pqZeroMode then 0 else read a

/-- The XOR of the products of one codeword's symbols (R256): table row and address of each symbol. -/
def parityPair (t : GfTables) (read : Nat → Byte) (symbols : List (Nat × Nat)) : Byte × Byte :=
  symbols.foldl (fun p q => (p.1 ^^^ (gfProd t q.1 (read q.2)).1, p.2 ^^^ (gfProd t q.1 (read q.2)).2)) (0, 0)

/-- The symbols of P column `col`, lane `l` (R254, R256). -/
def pSymbols (col l : Nat) : List (Nat × Nat) :=
  (List.range 24).map fun r => (19 + r, 0x00C + 2 * (43 * r + col) + l)

/-- The symbols of Q diagonal `d`, lane `l` (R254, R256). -/
def qSymbols (d l : Nat) : List (Nat × Nat) :=
  (List.range 43).map fun k => (k, 0x00C + 2 * ((43 * d + 44 * k) % 1118) + l)

/-- The parity bytes of `n` codewords of two lanes: the x symbols, then the y symbols (R256). -/
def parityBytes (t : GfTables) (read : Nat → Byte) (symbols : Nat → Nat → List (Nat × Nat)) (n : Nat) : List Byte :=
  let pairs := (List.range (2 * n)).map fun i => parityPair t read (symbols (i / 2) (i % 2))
  pairs.map Prod.fst ++ pairs.map Prod.snd

/-- The 172 P bytes at 0x81C (R256). -/
def pBytes (t : GfTables) (read : Nat → Byte) : List Byte := parityBytes t read pSymbols 43

/-- The 104 Q bytes at 0x8C8, computed with the P bytes in place (R256). -/
def qBytes (t : GfTables) (read : Nat → Byte) : List Byte := parityBytes t read qSymbols 26

/-- A reading with a run of bytes in place. -/
def overlay (read : Nat → Byte) (a : Nat) (bs : List Byte) (i : Nat) : Byte :=
  if a ≤ i ∧ i < a + bs.length then bs.getD (i - a) 0 else read i

/-- The 276 parity bytes of a sector (R256, R111). -/
def pqBytes (c : Config) (read : Nat → Byte) : List Byte :=
  let t := gfTables c
  let body := zeroedHeader c read
  let p := pBytes t body
  p ++ qBytes t (overlay body 0x81C p)

/-- SC.PQ (R256, R246): the header is zeroed while the parity is computed and restored from `TS_SAVE`. -/
def scPq (c : Config) (s : State) : Result :=
  if s.tbuilt = false then raise .tablesNotBuilt 0x34 s
  else needSec s <|
    let saved := bytesOf s.secByte 0x00C 4
    .next { (s.putSec 0x81C (pqBytes c s.secByte)).putSec 0x00C saved with tsSave := .put saved }

/-! ## SC.EMIT -/

/-- SC.EMIT (R259). -/
def scEmit (c : Config) (size : Nat) (s : State) : Result :=
  if size = c.sectorBytes then needSec s (.next (s.emit (bytesOf s.secByte 0x000 c.sectorBytes)))
  else if size = c.sectorBytes - 0x010 then needSec s (.next (s.emit (bytesOf s.secByte 0x010 (c.sectorBytes - 0x010))))
  else raise .addressRange size s

/-- The meaning of SC.TABLES. -/
def execScTables (s : State) : Result := unlessFaulted s (scTables s)

/-- The meaning of SC.INIT. -/
def execScInit (submode coding : Nat) (s : State) : Result := unlessFaulted s (scInit submode coding s)

/-- The meaning of SC.STAMP. -/
def execScStamp (lba : Nat) (s : State) : Result := unlessFaulted s (scStamp Config.hw lba s)

/-- The meaning of SC.EDC. -/
def execScEdc (form : Nat) (s : State) : Result := unlessFaulted s (scEdc Config.hw form s)

/-- The meaning of SC.PQ. -/
def execScPq (s : State) : Result := unlessFaulted s (scPq Config.hw s)

/-- The meaning of SC.EMIT. -/
def execScEmit (size : Nat) (s : State) : Result := unlessFaulted s (scEmit Config.hw size s)

end Sys2Proof.Machine
end

