-- ==== Sys2Proof/Machine/Video.lean ====
section
/-! DEFINITION. The DCT Video Block Encoder: VD.BEGIN to VD.FRAME (spec/42_dct_video.md). -/

namespace Sys2Proof.Machine

/-- Read `CFG.width` and `CFG.height`. -/
def needSize (s : State) (k : Nat → Nat → Result) : Result :=
  need s.cfg.width .cfgWidth fun w => need s.cfg.height .cfgHeight fun h => k w h

/-! ## VD.BEGIN (R191) -/

/-- The frame context's reset at the start of a frame (R191). -/
def State.beginFrame (c : Config) (s : State) : State :=
  { s with bwAcc := 0, bwLeft := c.accBits, out := [], fcWords := 0 }

/-- VD.BEGIN (R191). -/
def vdBegin (c : Config) (s : State) : Result :=
  need s.cfg.width .cfgWidth fun w =>
    if w = 0 ∨ w % 16 ≠ 0 then raise .videoDimension w s
    else need s.cfg.height .cfgHeight fun h =>
      if h = 0 ∨ h % 16 ≠ 0 then raise .videoDimension h s else .next (s.beginFrame c)

/-! ## VD.CSC (R194) -/

/-- A luma block of a macroblock (R194). -/
def lumaBlock (c : Config) (s : State) (w h n mx my b : Nat) : Block :=
  (List.range 64).map fun k =>
    let p := s.pixel w h n (lumaX mx b k) (lumaY my b k)
    c.cscY p.1 p.2.1 p.2.2 - c.lumaBias

/-- A chroma block of a macroblock, from the sums of four pixels (R194). -/
def chromaBlock (f : Nat → Nat → Nat → Int) (s : State) (w h n mx my : Nat) : Block :=
  (List.range 64).map fun k =>
    let p := s.pixelSum w h n mx my k
    f p.1 p.2.1 p.2.2

/-- The six blocks in the order Cr, Cb, luma (R35, R193). -/
def macroblock (c : Config) (s : State) (w h n mx my : Nat) : List Block :=
  [chromaBlock c.cscCr s w h n mx my, chromaBlock c.cscCb s w h n mx my] ++
    (List.range 4).map fun i => lumaBlock c s w h n mx my (i + 2)

/-- VD.CSC (R194; log 20 for `FINFO`). -/
def vdCsc (c : Config) (n mx my : Nat) (s : State) : Result :=
  need s.cfg.width .cfgWidth fun w =>
    if macroblocks w ≤ mx then raise .addressRange mx s
    else need s.cfg.height .cfgHeight fun h =>
      if macroblocks h ≤ my then raise .addressRange my s
      else if s.rgba.size < frameEnd w h n then raise .addressRange n s
      else .next { s with mb := .put (macroblock c s w h n mx my) }

/-! ## VD.DCT (R198) -/

/-- One pass: multiply along the second index and write transposed (R198). -/
def dctPass (c : Config) (x : Block) : Block :=
  (List.range 64).map fun p =>
    (((List.range 8).map fun k => x.getD (8 * (p % 8) + k) 0 * c.scale.getD (8 * (p / 8) + k) 0).sum
      + (2 : Int) ^ (c.frac - 1)) >>> c.frac

/-- The divisions after the two passes: the DC term by VD_DC_DIV, then every element by VD_ALL_DIV (R198). -/
def dctScale (c : Config) (y : Block) : Block :=
  (List.range 64).map fun k =>
    let v := y.getD k 0
    Int.tdiv (if k = 0 then Int.tdiv v c.dcDiv else v) c.allDiv

/-- The transform of a block (R198). -/
def dctBlock (c : Config) (x : Block) : Block := dctScale c (dctPass c (dctPass c x))

/-- VD.DCT (R198). -/
def vdDct (c : Config) (b : Nat) (s : State) : Result :=
  if 5 < b then raise .addressRange b s
  else need s.mb .mb fun blocks => .next { s with mb := .put (blocks.set b (dctBlock c (blocks.getD b []))) }

/-! ## VD.QUANT (R202) -/

/-- One quantised coefficient: divide, zero below the threshold, clamp (R202). -/
def quantCoef (c : Config) (k : Nat) (pre : Int) : BitVec 10 :=
  let q := Int.tdiv pre (c.quant.getD k 1)
  let q := if pre.natAbs < c.zthresh k then 0 else q
  BitVec.ofInt 10 (clamp q c.coefMin c.coefMax)

/-- A quantised block (R202). -/
def quantBlock (c : Config) (x : Block) : QBlock := (List.range 64).map fun k => quantCoef c k (x.getD k 0)

/-- VD.QUANT (R202). -/
def vdQuant (c : Config) (b m : Nat) (s : State) : Result :=
  if 5 < b then raise .addressRange b s
  else needSize s fun w h =>
    if nmb w h ≤ m then raise .addressRange m s
    else need s.mb .mb fun blocks =>
      .next { s with fb := Store.put s.fb (blockKey m b) (quantBlock c (blocks.getD b [])) }

/-! ## VD.RATE (R206) -/

/-- `cut(b, t)` for the block at an index of `FB` (R206). -/
def cutOf (c : Config) (key t : Nat) : Nat := if key % 6 < 2 then c.cutChroma t else c.cutLuma t

/-- `cutblk(m, b, t)`: the DC element stays, the others below the cutoff become 0 (R206). -/
def cutBlock (c : Config) (key t : Nat) (q : QBlock) : QBlock :=
  (List.range 64).map fun k =>
    let v := q.getD k 0
    if k ≠ 0 ∧ v.toInt.natAbs < cutOf c key t then 0 else v

/-- The non-zero AC coefficients of a block. -/
def acCount (q : QBlock) : Nat := ((List.range 64).filter fun k => decide (k ≠ 0 ∧ q.getD k 0 ≠ 0)).length

/-- The snapshot of the frame, block by block in index order (R37). -/
def snapshot (st : Store QBlock) (n : Nat) : List QBlock :=
  (List.range (6 * n)).map fun key => (Store.lookup st key).getD []

/-- Every block of the frame has been written (R220). -/
def snapshotWritten (st : Store QBlock) (n : Nat) : Bool :=
  (List.range (6 * n)).all fun key => (Store.lookup st key).isSome

/-- The cut copy of a snapshot (R206). -/
def cutFrame (c : Config) (t : Nat) (frame : List QBlock) : List QBlock :=
  frame.mapIdx fun key q => cutBlock c key t q

/-- `count(t)` (R206). -/
def frameCount (frame : List QBlock) : Nat := (frame.map acCount).sum

/-- The loop `while count(t) > VD_BUDGET: t <- t + 1`, which ends after at most T steps (R206, R207 (c)). -/
def rateLoop (c : Config) (frame : List QBlock) : Nat → Nat → Nat
  | 0, t => t
  | fuel + 1, t => if frameCount (cutFrame c t frame) ≤ c.budget then t else rateLoop c frame fuel (t + 1)

/-- VD.RATE (R206). -/
def vdRate (c : Config) (s : State) : Result :=
  needSize s fun w h =>
    if snapshotWritten s.fb (nmb w h) then
      let frame := snapshot s.fb (nmb w h)
      .next { s with fbc := Store.putList s.fbc 0 (cutFrame c (rateLoop c frame c.cutLast 0) frame) }
    else .refused (.unwritten .fb)

/-! ## VD.PACK and VD.END (R211, R213) -/

/-- `FC.words <- FC.words + n` (R212). -/
def State.addWords (s : State) (n : Nat) : State := { s with fcWords := s.fcWords + n }

/-- `FC.words <- (FC.words + 15) & ~15` (R212). -/
def State.roundWords (s : State) : State := { s with fcWords := (s.fcWords + 15) / 16 * 16 }

/-- The AC coefficients of a block in scan order (R209). -/
def scanAc (c : Config) (q : QBlock) : List (BitVec 10) := (List.range 63).map fun i => q.getD (c.zagzig.getD (i + 1) 0) 0

/-- The escape of each non-zero value with the run of zeros before it (R211, R113). -/
def packAc (c : Config) : List (BitVec 10) → Nat → State → Result
  | [], _, s => .next s
  | v :: vs, run, s =>
    if v = 0 then packAc c vs (run + 1) s
    else
      andThen (bwWrite c 6 c.esc s) fun s =>
      andThen (bwWrite c 16 ((run <<< 10) ||| v.toNat) s) fun s =>
      packAc c vs 0 (s.addWords 1)

/-- The fields of one block and its word count (R211, R212). -/
def packBlock (c : Config) (q : QBlock) (s : State) : Result :=
  andThen (bwWrite c 10 (q.getD 0 0).toNat s) fun s =>
  andThen (packAc c (scanAc c q) 0 (s.addWords 1)) fun s =>
  andThen (bwWrite c 2 c.eob s) fun s =>
  .next (s.addWords 1).roundWords

/-- VD.PACK (R211): the whole block or none of it (R323; log 22). -/
def vdPack (c : Config) (m b : Nat) (s : State) : Result :=
  if 5 < b then raise .addressRange b s
  else needSize s fun w h =>
    if nmb w h ≤ m then raise .addressRange m s
    else match Store.lookup s.fbc (blockKey m b) with
      | some q => allOrNothing s (packBlock c q s)
      | none => .refused (.unwritten .fbc)

/-- VD.END (R213), all of it or none (R323; log 22). -/
def vdEnd (c : Config) (s : State) : Result := allOrNothing s <|
  andThen (bwWrite c 10 c.sentinel s) fun s =>
  andThen (bwWrite c 2 c.eob s) fun s =>
  bwFlush c (s.addWords 2).roundWords

/-! ## VD.DEMUX (R215) -/

/-- The 32 bytes of the header of chunk `j` (R217). The three stamps and the byte count that the source's list does not
have are zero in the other admissible layout. -/
def chunkHeader (c : Config) (s : State) (w h j : Nat) : List Byte :=
  let extra := fun (width value : Nat) =>
    match c.hdrLayout with
    | .suggested => leField width value
    | .sourceFields => leField width 0
  extra 2 0x0160 ++ extra 2 0x8001 ++ leField 2 j ++ leField 2 c.nchunk ++ leField 4 s.fcFrameIndex ++
    extra 4 s.out.length ++ leField 2 w ++ leField 2 h ++ leField 2 (s.fcWords / 16) ++ leField 2 0x3800 ++
    leField 2 s.fcQscale ++ leField 2 2 ++ leField 4 0

/-- The payload of chunk `j`, zero filled (R215). -/
def chunkPayload (c : Config) (out : List Byte) (j : Nat) : List Byte :=
  let part := (out.drop (c.chunkBytes * j)).take c.chunkBytes
  part ++ List.replicate (c.chunkBytes - part.length) 0

/-- The bytes of `DMX` (R215). -/
def demuxBytes (c : Config) (s : State) (w h : Nat) : List Byte :=
  (List.range c.nchunk).flatMap fun j => chunkHeader c s w h j ++ chunkPayload c s.out j

/-- VD.DEMUX (R215, R218). -/
def vdDemux (c : Config) (s : State) : Result :=
  if c.frameBytes < s.out.length then raise .frameOverflow s.out.length s
  else needSize s fun w h =>
    .next { s with dmx := s.dmx.writeList 0 (demuxBytes c s w h), fcFrameIndex := s.fcFrameIndex + 1 }

/-! ## VD.FRAME (R219) -/

/-- Transform and quantise the six blocks of macroblock `m` (R219). -/
def encodeBlocks (c : Config) (m : Nat) (s : State) : Result :=
  forEach (List.range 6) (fun b s => andThen (vdDct c b s) (vdQuant c b m)) s

/-- Steps 1 to 3 for every macroblock in VD_MB_ORDER (R219). -/
def encodeMacroblocks (c : Config) (n w h : Nat) (s : State) : Result :=
  forEach (List.range (nmb w h)) (fun m s =>
    let p := c.mbOrder (macroblocks w) (macroblocks h) m
    andThen (vdCsc c n p.1 p.2 s) (encodeBlocks c m)) s

/-- Step 5 for every block (R219). -/
def packBlocks (c : Config) (w h : Nat) (s : State) : Result :=
  forEach (List.range (nmb w h)) (fun m s => forEach (List.range 6) (fun b s => vdPack c m b s) s) s

/-- VD.FRAME (R219). -/
def vdFrame (c : Config) (n : Nat) (s : State) : Result :=
  andThen (vdBegin c s) fun s =>
  needSize s fun w h =>
  andThen (encodeMacroblocks c n w h s) fun s =>
  andThen (vdRate c s) fun s =>
  andThen (packBlocks c w h s) fun s =>
  andThen (vdEnd c s) fun s =>
  vdDemux c s

/-- The meaning of VD.BEGIN. -/
def execVdBegin (s : State) : Result := unlessFaulted s (vdBegin Config.hw s)

/-- The meaning of VD.CSC. -/
def execVdCsc (n mx my : Nat) (s : State) : Result := unlessFaulted s (vdCsc Config.hw n mx my s)

/-- The meaning of VD.DCT. -/
def execVdDct (b : Nat) (s : State) : Result := unlessFaulted s (vdDct Config.hw b s)

/-- The meaning of VD.QUANT. -/
def execVdQuant (b m : Nat) (s : State) : Result := unlessFaulted s (vdQuant Config.hw b m s)

/-- The meaning of VD.RATE. -/
def execVdRate (s : State) : Result := unlessFaulted s (vdRate Config.hw s)

/-- The meaning of VD.PACK. -/
def execVdPack (m b : Nat) (s : State) : Result := unlessFaulted s (vdPack Config.hw m b s)

/-- The meaning of VD.END. -/
def execVdEnd (s : State) : Result := unlessFaulted s (vdEnd Config.hw s)

/-- The meaning of VD.DEMUX. -/
def execVdDemux (s : State) : Result := unlessFaulted s (vdDemux Config.hw s)

/-- The meaning of VD.FRAME. -/
def execVdFrame (n : Nat) (s : State) : Result := unlessFaulted s (vdFrame Config.hw n s)

end Sys2Proof.Machine
end

