-- ==== Sys2Proof/Machine/Stream.lean ====
section
/-! DEFINITION. Stream sequencing: MX.XA, MX.SPU, MX.SPUI, MX.STR, MX.ISO2RAW (spec/44_stream_sequencing.md). Each is
the sequence of unit commands its rule expands it to. -/

namespace Sys2Proof.Machine

/-! ## Stream start and counts -/

/-- An MX command needs `PHASE = INIT` (R281, R282). -/
def needInit (s : State) (r : Result) : Result :=
  if s.phase = .init then r else raise .phaseViolation s.phase.code s

/-- `start_stream()` (R282). -/
def startStream (c : Config) (s : State) : Result :=
  needInit s <| cfgValid c s.cfg fun
    | some clause => raise .configInvalid clause s
    | none =>
      need s.cfg.channels .cfgChannels fun ch =>
      andThen (forEach (List.range ch) adReset s) fun s =>
      .next { s with fcFrameIndex := c.firstFrame, phase := .encoding }

/-- `N`, the samples per channel (R284). -/
def samplesPerChannel (s : State) (ch : Nat) : Nat := countDiv s.pcm.length ch

/-- `spc`, the samples per channel of one XA sector (R284). -/
def samplesPerSector (c : Config) (ch : Nat) : Nat := countDiv (c.xaCadence * 8 * c.nsamp) ch

/-- `PHASE <- FINALIZE` on the last chunk (R281). -/
def State.finalizeAt (s : State) (last : Bool) : State := if last then s.setPhase .finalize else s

/-- The chunk loop `for i in 0..n-1`, with `PHASE <- FINALIZE` before the last chunk and `PHASE <- DONE` after it
(R281). -/
def chunkLoop (n : Nat) (body : Nat → State → Result) (s : State) : Result :=
  andThen (forEach (List.range n) (fun i s => body i (s.finalizeAt (i + 1 == n))) s) fun s => .next (s.setPhase .done)

/-! ## XA sectors (R285 to R288) -/

/-- Where the two copies of unit `u`'s header byte stand in a sub-block at `g` (R287). -/
def headerAddrs (g u : Nat) : Nat × Nat := if u < 4 then (g + u, g + 4 + u) else (g + 4 + u, g + 8 + u)

/-- Write `AD_HDR` to its two positions (R285, R287). -/
def State.putHeaders (s : State) (g u : Nat) : State :=
  (s.putSec (headerAddrs g u).1 [s.adHdr.val]).putSec (headerAddrs g u).2 [s.adHdr.val]

/-- The first sample, per channel, of unit `u` of sub-block `g` of XA sector `n` (R285). -/
def unitStart (c : Config) (ch n g u : Nat) : Nat := n * samplesPerSector c ch + c.nsamp * ((8 * g + u) / ch)

/-- Sound unit `u` of sub-block `g` of XA sector `n` (R285, R288). -/
def xaUnit (c : Config) (ch n g u : Nat) (s : State) : Result :=
  andThen
    (adEncode c .sec (u % ch) (unitStart c ch n g u * ch + u % ch) ch c.fcXa (0x018 + 128 * g + 16 + u / 2)
      (4 * (u % 2)) 4 s)
    fun s => .next (s.putHeaders (0x018 + 128 * g) u)

/-- The sector's subheader, zero fill and 18 sub-blocks (R285, R286). -/
def xaSector (c : Config) (ch n : Nat) (last : Bool) (s : State) : Result :=
  need s.cfg.frequency .cfgFrequency fun hz =>
  need s.cfg.bits .cfgBits fun bits =>
  andThen (scInit (submodeOf c .audio last) (codingOf c ch hz bits) s) fun s =>
  forEach (List.range c.xaCadence) (fun g s => forEach (List.range 8) (fun u s => xaUnit c ch n g u s) s)
    (s.putSec 0x018 (List.replicate 2328 0))

/-- XA sector `n` of a stream of `total` samples per channel, whole (R285). -/
def xaChunk (c : Config) (format : Format) (ch total n : Nat) (s : State) : Result :=
  andThen (xaSector c ch n (decide (total ≤ (n + 1) * samplesPerSector c ch)) s) fun s =>
  andThen (if format = .xacd then scStamp c n s else .next s) fun s =>
  andThen (scEdc c 2 s) fun s =>
  scEmit c (if format = .xacd then 2352 else 2336) s

/-- MX.XA (R285). -/
def mxXa (c : Config) (s : State) : Result :=
  andThen (startStream c s) fun s =>
  need s.cfg.format .cfgFormat fun format =>
  need s.cfg.channels .cfgChannels fun ch =>
  let total := samplesPerChannel s ch
  chunkLoop (ceilDiv total (samplesPerSector c ch)) (xaChunk c format ch total) s

/-! ## SPU blocks (R289 to R292) -/

/-- The 16 bytes of a block: header, flags, 28 nibbles from `SCR` (R102, R289). -/
def spuBlock (s : State) (flags : Byte) : List Byte :=
  s.adHdr.val :: flags :: (List.range 14).map fun p =>
    (s.scrByte (2 * p) &&& 0xF) ||| ((s.scrByte (2 * p + 1) &&& 0xF) <<< 4)

/-- Encode block `j` of channel `ch` of `n` channels and append it to `SINK` (R289, R290). The loop flag is read here,
for the block's `flags`, and so by no stream without blocks. -/
def spuUnit (c : Config) (n ch j : Nat) (flags : Bool → Byte) (s : State) : Result :=
  need s.cfg.loop .cfgLoop fun loop =>
  andThen (adEncode c .scr ch (c.nsamp * j * n + ch) n c.fcSpu 0 0 1 s) fun s =>
  .next (s.emit (spuBlock s (flags (loop != 0))))

/-- The 48 bytes of the VAG header (R291). -/
def vagHeader (c : Config) (interleaved : Bool) (interleave dataLength frequency channels : Nat) : List Byte :=
  [0x56, 0x41, 0x47, if interleaved then 0x69 else 0x70] ++ beField 4 0x20 ++
    leField 4 (if interleaved then interleave else 0) ++ beField 4 dataLength ++ beField 4 frequency ++
    List.replicate 10 0 ++ leField 2 (if interleaved then channels else 0) ++ c.vagName

/-- Zero bytes up to the next multiple of `unit` (R290, R291). -/
def padTo (unit : Nat) (bs : List Byte) : List Byte := bs ++ List.replicate (ceilDiv bs.length unit * unit - bs.length) 0

/-- Block `j` of a stream of `total` samples (R289). -/
def spuChunk (c : Config) (ch total j : Nat) (s : State) : Result :=
  spuUnit c ch 0 j (spuFlags (j == 0) (decide (total ≤ c.nsamp * (j + 1)))) s

/-- MX.SPU (R289). -/
def mxSpu (c : Config) (s : State) : Result :=
  andThen (startStream c s) fun s =>
  need s.cfg.format .cfgFormat fun format =>
  need s.cfg.channels .cfgChannels fun ch =>
  need s.cfg.frequency .cfgFrequency fun hz =>
  let total := samplesPerChannel s ch
  let blocks := ceilDiv total c.nsamp
  chunkLoop blocks (spuChunk c ch total)
    (if format = .vag then s.emit (vagHeader c false 0 (16 * blocks) hz ch) else s)

/-- The flag byte of block `j` in chunk `q` of `bi` blocks (R290). -/
def spuiFlags (c : Config) (total bi q j : Nat) (loop : Bool) : Byte :=
  spuFlags (j == 0) (j == (q + 1) * bi - 1 && decide (total ≤ (q + 1) * bi * c.nsamp)) loop

/-- Chunk `q`: `bi` blocks of each channel in turn (R290). -/
def spuiChunk (c : Config) (ch bi total q : Nat) (s : State) : Result :=
  forEach (List.range ch) (fun k s =>
    forEach (List.range bi) (fun i s => spuUnit c ch k (q * bi + i) (spuiFlags c total bi q (q * bi + i)) s) s) s

/-- MX.SPUI (R290). -/
def mxSpui (c : Config) (s : State) : Result :=
  andThen (startStream c s) fun s =>
  need s.cfg.format .cfgFormat fun format =>
  need s.cfg.channels .cfgChannels fun ch =>
  need s.cfg.frequency .cfgFrequency fun hz =>
  need s.cfg.interleave .cfgInterleave fun interleave =>
  let total := samplesPerChannel s ch
  let bi := interleave / 16
  let chunks := ceilDiv (ceilDiv total c.nsamp) bi
  if format = .vagi then
    need s.cfg.alignment .cfgAlignment fun al =>
      chunkLoop chunks (spuiChunk c ch bi total)
        (s.emit (padTo al (vagHeader c true interleave (16 * bi * chunks) hz ch)))
  else chunkLoop chunks (spuiChunk c ch bi total) s

/-! ## STR groups (R293) -/

/-- A video sector of a group up to its payload: chunk `j` of `DMX` (R216, R293). -/
def strVideoSector (c : Config) (j : Nat) (last : Bool) (s : State) : Result :=
  andThen (scInit (submodeOf c .video last) 0 s) fun s =>
  .next ((s.putSec 0x018 (bytesOf s.dmxByte (c.slotBytes * j) c.slotBytes)).putSec 0x818
    (List.replicate 280 0))

/-- Sector `i` of group `g` (R293). -/
def strSector (c : Config) (format : Format) (ch g i : Nat) (last : Bool) (s : State) : Result :=
  let audio := i == c.audioSlot
  andThen (if audio then xaSector c ch g last s else strVideoSector c (if i < c.audioSlot then i else i - 1) last s)
    fun s =>
  andThen (scStamp c (c.stGroup * g + i) s) fun s =>
  andThen (scEdc c (if audio then 2 else 1) s) fun s =>
  andThen (if format = .str2cd ∧ audio = false then scPq c s else .next s) fun s =>
  scEmit c (if format = .str2cd then 2352 else 2336) s

/-- Group `g` of a stream of `frames` frames (R293). -/
def strGroup (c : Config) (format : Format) (ch frames g : Nat) (s : State) : Result :=
  andThen (vdFrame c g s)
    (forEach (List.range c.stGroup) fun i s => strSector c format ch g i (g + 1 == frames && i + 1 == c.stGroup) s)

/-- MX.STR (R293). The rule says "number of frames in RGBA" and does not say what a length that is no whole number of
frames holds: DESIGN CHOICE, the whole frames, a last partial one dropped (log 43). -/
def mxStr (c : Config) (s : State) : Result :=
  andThen (startStream c s) fun s =>
  need s.cfg.format .cfgFormat fun format =>
  need s.cfg.channels .cfgChannels fun ch =>
  needSize s fun w h =>
  let frames := countDiv s.rgba.size (4 * (w * h))
  chunkLoop frames (strGroup c format ch frames) s

/-! ## ISO to raw (R297) -/

/-- Raw sector `n` of the image (R297). -/
def rawSector (c : Config) (n : Nat) (s : State) : Result :=
  andThen (scInit (submodeOf c .data false) 0 s) fun s =>
  andThen (scStamp c n (s.putSec 0x018 (bytesOf s.isoByte (2048 * n) 2048))) fun s =>
  andThen (scEdc c 1 s) fun s =>
  andThen (scPq c s) fun s =>
  scEmit c 2352 s

/-- MX.ISO2RAW (R297). -/
def mxIso2raw (c : Config) (s : State) : Result :=
  needInit s <|
    if s.iso.size % 2048 ≠ 0 then raise .addressRange s.iso.size s
    else chunkLoop (s.iso.size / 2048) (rawSector c) (s.setPhase .encoding)

/-- The meaning of MX.XA. -/
def execMxXa (s : State) : Result := unlessFaulted s (mxXa Config.hw s)

/-- The meaning of MX.SPU. -/
def execMxSpu (s : State) : Result := unlessFaulted s (mxSpu Config.hw s)

/-- The meaning of MX.SPUI. -/
def execMxSpui (s : State) : Result := unlessFaulted s (mxSpui Config.hw s)

/-- The meaning of MX.STR. -/
def execMxStr (s : State) : Result := unlessFaulted s (mxStr Config.hw s)

/-- The meaning of MX.ISO2RAW. -/
def execMxIso2raw (s : State) : Result := unlessFaulted s (mxIso2raw Config.hw s)

end Sys2Proof.Machine
end

