-- ==== Sys2Proof/Machine/System.lean ====
section
/-! DEFINITION. The system commands SYS.RESET (spec/70_reset_and_hazards.md R350) and SYS.VALIDATE
(spec/60_exceptions.md R322). -/

namespace Sys2Proof.Machine

/-- SYS.VALIDATE (R322). -/
def sysValidate (c : Config) (s : State) : Result :=
  cfgValid c s.cfg fun
    | some clause => raise .configInvalid clause s
    | none => .next s

/-- The meaning of SYS.RESET: the only command accepted while `FAULT` is 1 (R350). -/
def execSysReset (s : State) : Result := .next (s.resetKeepingHost Config.hw)

/-- The meaning of SYS.VALIDATE. -/
def execSysValidate (s : State) : Result := unlessFaulted s (sysValidate Config.hw s)

end Sys2Proof.Machine
end

