-- ==== Sys2Proof/Machine/Dispatch.lean ====
section
/-! DEFINITION. What each command does: one arm per constructor (spec/30_encoding.md R91). -/

namespace Sys2Proof.Machine
open Sys2Proof

def exec (i : Instr) (s : State) : Host.Outcome State Fault Refusal :=
  match i with
  | .bwWrite n value => Sys2Proof.Machine.execBwWrite n value s
  | .bwFlush => Sys2Proof.Machine.execBwFlush s
  | .adReset c => Sys2Proof.Machine.execAdReset c s
  | .adMinshift c base stride f => Sys2Proof.Machine.execAdMinshift c base stride f s
  | .adTrial c base stride f r => Sys2Proof.Machine.execAdTrial c base stride f r s
  | .adEncode c base stride fc dbase ds dp => Sys2Proof.Machine.execAdEncode c base stride fc dbase ds dp s
  | .vdBegin => Sys2Proof.Machine.execVdBegin s
  | .vdCsc n mx my => Sys2Proof.Machine.execVdCsc n mx my s
  | .vdDct b => Sys2Proof.Machine.execVdDct b s
  | .vdQuant b m => Sys2Proof.Machine.execVdQuant b m s
  | .vdRate => Sys2Proof.Machine.execVdRate s
  | .vdPack m b => Sys2Proof.Machine.execVdPack m b s
  | .vdEnd => Sys2Proof.Machine.execVdEnd s
  | .vdDemux => Sys2Proof.Machine.execVdDemux s
  | .vdFrame n => Sys2Proof.Machine.execVdFrame n s
  | .scTables => Sys2Proof.Machine.execScTables s
  | .scInit submode coding => Sys2Proof.Machine.execScInit submode coding s
  | .scStamp lba => Sys2Proof.Machine.execScStamp lba s
  | .scEdc form => Sys2Proof.Machine.execScEdc form s
  | .scPq => Sys2Proof.Machine.execScPq s
  | .scEmit size => Sys2Proof.Machine.execScEmit size s
  | .mxXa => Sys2Proof.Machine.execMxXa s
  | .mxSpu => Sys2Proof.Machine.execMxSpu s
  | .mxSpui => Sys2Proof.Machine.execMxSpui s
  | .mxStr => Sys2Proof.Machine.execMxStr s
  | .mxIso2raw => Sys2Proof.Machine.execMxIso2raw s
  | .sysReset => Sys2Proof.Machine.execSysReset s
  | .sysValidate => Sys2Proof.Machine.execSysValidate s

end Sys2Proof.Machine
end

