-- ==== Sys2Proof/Machine/Port.lean ====
section
/-! DEFINITION. The block's port: how a command reaches the decoder and its meaning (spec/30_encoding.md R90, R92;
spec/60_exceptions.md R325, R326), and the host's writes between commands (R332, R41, U13). Step.lean calls these. -/

namespace Sys2Proof.Machine

/-- Run one command. A faulted block does not decode (R326): every command but SYS.RESET changes nothing. An illegal
opcode is the fault IllegalCommand (R92). -/
def runCommand (cmd : Command) (s : State) : Result :=
  match decode cmd with
  | .ok i => exec i s
  | .error (.illegalOpcode op) => unlessFaulted s (raise .illegalCommand op s)
  | .error (.operandCount op given) => unlessFaulted s (.refused (.operandRecord op given))

/-- What a register of `w` bits holds after a write of `v`: `v` where it fits, a free value of the width where it does
not, since no rule says what such a write does (log 45). -/
def fitted {w : Nat} (free : Nat → BitVec w) (v : Nat) : Nat := if v < 2 ^ w then v else (free v).toNat

/-- Write one field of `CFG`, within the widths of R40. -/
def Settings.write (g : Settings) : Setting → Settings
  | .format v => { g with format := .put v }
  | .frequency v => { g with frequency := .put v }
  | .channels v => { g with channels := .put v }
  | .bits v => { g with bits := .put v }
  | .file v => { g with file := .put (fitted Config.freeFileNumber v) }
  | .channel v => { g with channel := .put (fitted Config.freeChannelNumber v) }
  | .interleave v => { g with interleave := .put v }
  | .alignment v => { g with alignment := .put v }
  | .loop v => { g with loop := .put (fitted Config.freeLoopFlag v) }
  | .width v => { g with width := .put v }
  | .height v => { g with height := .put v }

/-- Declare and fill a host buffer (R352). -/
def State.fillBuffer (s : State) (b : HostBuffer) (bytes : List Byte) : State :=
  match b with
  | .rgba => { s with rgba := .filled bytes }
  | .iso => { s with iso := .filled bytes }
  | .data => { s with data := .filledZ bytes }

/-- The declared length of a host buffer (R352). -/
def State.bufferSize (s : State) : HostBuffer → Nat
  | .rgba => s.rgba.size
  | .iso => s.iso.size
  | .data => s.data.size

/-- Write one byte of a host buffer (R332). -/
def State.storeBuffer (s : State) (b : HostBuffer) (a : Nat) (byte : Byte) : State :=
  match b with
  | .rgba => { s with rgba := s.rgba.write a byte }
  | .iso => { s with iso := s.iso.write a byte }
  | .data => { s with data := s.data.writeZ a byte }

/-- The phases in which the host may not touch the input buffers of a running command (U13, R369). -/
def midStream : Phase → Bool
  | .encoding | .finalize => true
  | .init | .done | .faulted => false

/-- The payload and subheader bytes of `SEC` (R332, R70). -/
def hostSecAddr (a : Nat) : Bool := decide (0x010 ≤ a) && decide (a ≤ 0x92B)

/-- The buffer is closed to the host in this phase: an input buffer mid-stream (U13). `DATA` is the host's target array
(R60), and R332 names it beside the input buffers and without a phase (log 34). -/
def HostBuffer.closed (b : HostBuffer) (p : Phase) : Bool :=
  match b with
  | .rgba | .iso => midStream p
  | .data => false

/-- A write of the host (R332): `CFG` in INIT only (R41, D32); the input buffers while no stream is under way (U13);
`DATA` and the payload and subheader of `SEC`. A write the rules forbid is refused, as is a store to an address that the
buffer does not have (R60). -/
def hostAct (m : HostMove) (s : State) : Result :=
  match m with
  | .command cmd => runCommand cmd s
  | .setting w =>
    if s.phase = .init then .next { s with cfg := s.cfg.write w } else .refused (.hostWrite m)
  | .pcm samples => if midStream s.phase then .refused (.hostWrite m) else .next { s with pcm := samples }
  | .buffer b bytes => if b.closed s.phase then .refused (.hostWrite m) else .next (s.fillBuffer b bytes)
  | .store b a byte =>
    if b.closed s.phase || decide (s.bufferSize b ≤ a) then .refused (.hostWrite m)
    else .next (s.storeBuffer b a byte)
  | .storeSec a byte => if hostSecAddr a then .next (s.putSec a [byte]) else .refused (.hostWrite m)

/-- The oldest pending action of the host, and the state with it taken (R19; log 1). -/
def State.fetch (s : State) : Option (HostMove × State) :=
  match s.moves with
  | [] => none
  | m :: rest => some (m, { s with moves := rest })

/-- Put a command before every pending action. -/
def State.issue (s : State) (cmd : Command) : State := { s with moves := .command cmd :: s.moves }

end Sys2Proof.Machine
end

