-- ==== Sys2Proof/Machine/Step.lean ====
section
/-! DEFINITION. One step of the block: the host's oldest pending action, whole (spec/00_scope.md R19,
spec/20_memory.md R81). With none pending the block does nothing. -/

namespace Sys2Proof.Machine

/-- One step (R19, R81). -/
def step (s : State) : Host.Outcome State Fault Refusal :=
  match s.fetch with
  | none => .next s
  | some (m, s) => hostAct m s

/-- The state in which the host's next action is to issue the command of a word of spec/opcode_table.json, its operands
all zero (log 1, log 2). -/
def State.withFetchWord (s : State) (nbits w : Nat) : State := s.issue (tableCommand nbits w)

end Sys2Proof.Machine
end

