-- ==== Sys2Proof/Safety.lean ====
section
/-! DEFINITION. What counts as a safe step and a well-formed state, in the terms the claims use; and what the host may
read (spec/60_exceptions.md R332). -/

namespace Sys2Proof

/-- What a simple command is (R323): every command but VD.FRAME and the MX commands, whose inner steps keep their effect
when a later one faults. AD.ENCODE, which R323 lists too, checks everything first (R166). -/
def Instr.simple : Instr → Bool
  | .vdFrame _ | .mxXa | .mxSpu | .mxSpui | .mxStr | .mxIso2raw => false
  | .bwWrite _ _ | .bwFlush | .adReset _ | .adMinshift _ _ _ _ | .adTrial _ _ _ _ _ | .adEncode _ _ _ _ _ _ _ => true
  | .vdBegin | .vdCsc _ _ _ | .vdDct _ | .vdQuant _ _ | .vdRate | .vdPack _ _ | .vdEnd | .vdDemux => true
  | .scTables | .scInit _ _ | .scStamp _ | .scEdc _ | .scPq | .scEmit _ | .sysReset | .sysValidate => true

/-- The MX commands (R281). -/
def Instr.mx : Instr → Bool
  | .mxXa | .mxSpu | .mxSpui | .mxStr | .mxIso2raw => true
  | .bwWrite _ _ | .bwFlush | .adReset _ | .adMinshift _ _ _ _ | .adTrial _ _ _ _ _ | .adEncode _ _ _ _ _ _ _ => false
  | .vdBegin | .vdCsc _ _ _ | .vdDct _ | .vdQuant _ _ | .vdRate | .vdPack _ _ | .vdEnd | .vdDemux | .vdFrame _ => false
  | .scTables | .scInit _ _ | .scStamp _ | .scEdc _ | .scPq | .scEmit _ | .sysReset | .sysValidate => false

/-- The configuration of this hardware with SC_LBA_BASE at `base`. The offset is OPEN and has no bound (R11; log 16), so
what depends on it is stated for each. -/
def Config.withBase (base : Nat) : Config := { Config.hw with lbaBase := base }

end Sys2Proof

namespace Sys2Proof.Machine

/-- The outcome is a next state in which no fault stands. -/
def runsClean : Result → Bool
  | .next s => !s.fault
  | .fault _ => false
  | .refused _ => false

/-- The unwritten bits of the accumulator are 0, and at most 16 are unwritten (R29). -/
def State.bwInv (s : State) : Prop := s.bwLeft ≤ 16 ∧ s.bwAcc.toNat % 2 ^ s.bwLeft = 0

/-- Only whole words reach `OUT` (R64). -/
def State.outInv (s : State) : Prop := s.out.length % 2 = 0

/-- The buffers are in canonical form, and the block's own have the sizes of R60, R70, R215, R289. -/
def State.memInv (s : State) : Prop :=
  s.sec.wf ∧ s.scr.wf ∧ s.dmx.wf ∧ s.rgba.wf ∧ s.iso.wf ∧ s.data.wfZ ∧
    s.sec.size = 2352 ∧ s.scr.size = 28 ∧ s.dmx.size = 14336

/-- The channel bank, `FB` and `FBC` are in canonical form. -/
def State.storeInv (s : State) : Prop :=
  Store.wf s.ch ∧ (∀ p ∈ s.ch, p.2 ≠ Channel.zero) ∧ Store.wf s.fb ∧ Store.wf s.fbc

/-- A written `MB` holds six blocks of 64 elements (R35). -/
def State.mbInv (s : State) : Prop :=
  s.mb.written = true → s.mb.val.length = 6 ∧ ∀ x ∈ s.mb.val, x.length = 64

/-- The fields of `CFG` to which R40 gives a width hold values of that width. -/
def State.cfgInv (s : State) : Prop := s.cfg.file.val < 2 ^ 8 ∧ s.cfg.channel.val < 2 ^ 8 ∧ s.cfg.loop.val < 2 ^ 1

/-- `CH[c].qerr` is 0 for every channel (R24). -/
def State.qerrInv (s : State) : Prop := ∀ c, (s.channel c).qerr = 0

/-- `FAULT` is 1 exactly in `FAULTED`, and then `FCAUSE` and `FINFO` are written, the cause one of the eleven
(R43, R321, R325). -/
def State.faultInv (s : State) : Prop :=
  (s.fault = true ↔ s.phase = .faulted) ∧
    (s.fault = true → s.fcause.written = true ∧ s.finfo.written = true ∧ 1 ≤ s.fcause.val ∧ s.fcause.val ≤ 11)

/-- Between commands `PHASE` is INIT, DONE or FAULTED (R281). -/
def State.phaseInv (s : State) : Prop := s.phase = .init ∨ s.phase = .done ∨ s.phase = .faulted

/-- The written bits of the stream (R136): the words of `OUT`, each read second byte first, most significant bit
first, then the `16 - BW.left` written bits of the accumulator. -/
def wordBits (w : BitVec 16) (n : Nat) : List Bool := (List.range n).map fun i => w.getLsbD (15 - i)

/-- The bits of the whole words of a byte string, each word second byte first (R136). -/
def streamBits : List Byte → List Bool
  | lo :: hi :: rest => wordBits (hi ++ lo) 16 ++ streamBits rest
  | _ => []

/-- The bit string `B` that `OUT` and the accumulator spell (R136 (a)). -/
def State.bits (s : State) : List Bool := streamBits s.out ++ wordBits s.bwAcc (16 - s.bwLeft)

/-- The `n`-bit big-endian form of a value (R136). -/
def fieldBits (n value : Nat) : List Bool := (List.range n).map fun i => value.testBit (n - 1 - i)

/-- What the host reads of a register it may read: nothing where nothing has written it since reset (R46, R332). -/
def Marked.hostRead {α : Type} (m : Marked α) : Option α := if m.written then some m.val else none

/-! ## Room, reset, configuration -/

/-- OUT_CAP leaves room for `n` more bytes in `OUT` (R30, R133). -/
def State.room (s : State) (n : Nat) : Prop := ∀ cap, Config.hw.outCap = some cap → s.out.length + n ≤ cap

/-- The table of R46: the reset values, and `written = false` where it says unspecified. -/
structure State.AtReset (s : State) : Prop where
  ch : ∀ c, s.channel c = ⟨0, 0, 0⟩
  adpcm : s.cand.written = false ∧ s.best.written = false ∧ s.adHdr.written = false ∧ s.adMse.written = false ∧
    s.adMin.written = false
  bw : s.bwAcc = 0 ∧ s.bwLeft = 16 ∧ s.out = []
  fc : s.fcWords = 0 ∧ s.fcQscale = 1 ∧ s.fcFrameIndex = Config.hw.firstFrame
  blocks : s.mb.written = false ∧ (∀ k, Store.lookup s.fb k = none) ∧ ∀ k, Store.lookup s.fbc k = none
  bytes : (∀ a, s.dmx.read? a = none) ∧ (∀ a, s.scr.read? a = none) ∧ (∀ a, s.sec.read? a = none) ∧
    s.tsSave.written = false
  cfg : s.cfg.format.written = false ∧ s.cfg.frequency.written = false ∧ s.cfg.channels.written = false ∧
    s.cfg.bits.written = false ∧ s.cfg.file.written = false ∧ s.cfg.channel.written = false ∧
    s.cfg.interleave.written = false ∧ s.cfg.alignment.written = false ∧ s.cfg.loop.written = false ∧
    s.cfg.width.written = false ∧ s.cfg.height.written = false
  phase : s.phase = .init
  fault : s.fault = false ∧ s.fcause.written = false ∧ s.finfo.written = false
  tbuilt : s.tbuilt = false

/-- A format whose check reads `interleave`. -/
def Format.interleaved (f : Format) : Prop := f = .spui ∨ f = .vagi

/-- A format with video. -/
def Format.video (f : Format) : Prop := f = .str2 ∨ f = .str2cd

/-- Every field of `CFG` that the chosen format reads has been written (R352, step 2). -/
structure Settings.Written (g : Settings) : Prop where
  format : g.format.written = true
  frequency : g.frequency.written = true
  channels : g.channels.written = true
  bits : g.bits.written = true
  sector : g.format.val.sectored = true → g.file.written = true ∧ g.channel.written = true
  loop : g.format.val.sectored = false → g.loop.written = true
  interleave : g.format.val.interleaved → g.interleave.written = true
  alignment : g.format.val = .vagi → g.alignment.written = true
  size : g.format.val.video → g.width.written = true ∧ g.height.written = true

/-- Clause `n` of `cfg_valid` (R322), each read on its own. Clause 7 asks nothing of a field that is unwritten (R352). -/
def Settings.Clause (g : Settings) : Nat → Prop
  | 1 => g.format.val = .xa ∨ g.format.val = .xacd ∨ g.format.val = .spu ∨ g.format.val = .spui ∨
      g.format.val = .vag ∨ g.format.val = .vagi ∨ g.format.val = .str2 ∨ g.format.val = .str2cd
  | 2 => g.bits.val = 4
  | 3 => (g.format.val = .spu ∨ g.format.val = .vag → g.channels.val = 1) ∧
      (g.format.val = .xa ∨ g.format.val = .xacd ∨ g.format.val = .str2 ∨ g.format.val = .str2cd →
        g.channels.val = 1 ∨ g.channels.val = 2) ∧
      (g.format.val = .spui ∨ g.format.val = .vagi → 1 ≤ g.channels.val)
  | 4 => 0 < g.frequency.val ∧
      (g.format.val = .xa ∨ g.format.val = .xacd ∨ g.format.val = .str2 ∨ g.format.val = .str2cd →
        g.frequency.val = 37800 ∨ g.frequency.val = 18900)
  | 5 => (g.format.val = .spui ∨ g.format.val = .vagi → 0 < g.interleave.val ∧ g.interleave.val % 16 = 0) ∧
      (g.format.val = .vagi → 0 < g.alignment.val)
  | 6 => g.format.val = .str2 ∨ g.format.val = .str2cd →
      0 < g.width.val ∧ g.width.val % 16 = 0 ∧ 0 < g.height.val ∧ g.height.val % 16 = 0
  | 7 => (g.file.written = true → g.file.val ≤ 255) ∧ (g.channel.written = true → g.channel.val ≤ 255) ∧
      (g.loop.written = true → g.loop.val ≤ 1)
  | _ => True

/-- `cfg_valid(CFG)`: every clause holds (R322). -/
def Settings.Valid (g : Settings) : Prop := ∀ n, 1 ≤ n → n ≤ 7 → g.Clause n

/-- Whether a field of `CFG` has been written. -/
def Settings.has (g : Settings) : Item → Bool
  | .cfgFormat => g.format.written
  | .cfgFrequency => g.frequency.written
  | .cfgChannels => g.channels.written
  | .cfgBits => g.bits.written
  | .cfgFile => g.file.written
  | .cfgChannel => g.channel.written
  | .cfgInterleave => g.interleave.written
  | .cfgAlignment => g.alignment.written
  | .cfgLoop => g.loop.written
  | .cfgWidth => g.width.written
  | .cfgHeight => g.height.written
  | .mb | .fb | .fbc | .sec => false

/-- What `cfg_valid` asks of the value of a field (R322). -/
def Settings.FieldOk (g : Settings) : Item → Prop
  | .cfgFormat => g.Clause 1
  | .cfgBits => g.Clause 2
  | .cfgChannels => g.Clause 3
  | .cfgFrequency => g.Clause 4
  | .cfgInterleave => 0 < g.interleave.val ∧ g.interleave.val % 16 = 0
  | .cfgAlignment => 0 < g.alignment.val
  | .cfgWidth => 0 < g.width.val ∧ g.width.val % 16 = 0
  | .cfgHeight => 0 < g.height.val ∧ g.height.val % 16 = 0
  | .cfgFile => g.file.val ≤ 255
  | .cfgChannel => g.channel.val ≤ 255
  | .cfgLoop => g.loop.val ≤ 1
  | .mb | .fb | .fbc | .sec => True

/-- The fields `cfg_valid` checks for the chosen format, in the order of the clauses of R322, each with whether the
format reads it; one that it does not read may stay unwritten (R352). -/
def Settings.checked (g : Settings) : List (Item × Bool) :=
  let sectored := g.format.val.sectored
  [(.cfgFormat, true), (.cfgBits, true), (.cfgChannels, true), (.cfgFrequency, true)] ++
    (match g.format.val with
      | .spui => [(.cfgInterleave, true)]
      | .vagi => [(.cfgInterleave, true), (.cfgAlignment, true)]
      | .str2 | .str2cd => [(.cfgWidth, true), (.cfgHeight, true)]
      | _ => []) ++
    [(.cfgFile, sectored), (.cfgChannel, sectored), (.cfgLoop, !sectored)]

/-- A stream can start (R281, R282): no fault stands, `PHASE` is INIT, `CFG` is written and valid. -/
structure State.StreamReady (s : State) : Prop where
  fault : s.fault = false
  phase : s.phase = .init
  written : s.cfg.Written
  valid : s.cfg.Valid

/-! ## ADPCM -/

/-- The sample before sample `i`: the one before it in a list, or the seed (R155, R159). -/
def before1 (ys : List Int) (p1 : Int) (i : Nat) : Int := if i = 0 then p1 else ys.getD (i - 1) 0

/-- The sample before that one. -/
def before2 (ys : List Int) (p1 p2 : Int) (i : Nat) : Int :=
  if i = 0 then p2 else if i = 1 then p1 else ys.getD (i - 2) 0

/-- The residual of sample `i` of `xs` when the history is `ys` and the seed is a channel's state (R155, R158). -/
def residualAt (f : Nat) (v : Channel) (xs ys : List Int) (i : Nat) : Int :=
  xs.getD i 0 - predict Config.hw f (before1 ys v.prev1.toInt i) (before2 ys v.prev1.toInt v.prev2.toInt i)

/-- Every residual of the block, with the input samples as history, fits 4 signed bits after the floor shift `m`
(R155). -/
def blockFits (f : Nat) (v : Channel) (xs : List Int) (m : Nat) : Prop :=
  ∀ i, i < 28 → -8 ≤ residualAt f v xs xs i >>> m ∧ residualAt f v xs xs i >>> m ≤ 7

/-- What a channel does with one block: the best pair, the committed candidate (R166, R170). -/
def encodeBlock (fc : Nat) (v : Channel) (xs : List Int) : Best × Cand :=
  let b := searchBest Config.hw v xs fc
  (b, candOf Config.hw v xs b.f b.r)

/-- The channel after a block (R168, R170). -/
def nextChannel (fc : Nat) (v : Channel) (xs : List Int) : Channel :=
  let x := (encodeBlock fc v xs).2
  ⟨v.qerr, x.prev1, x.prev2⟩

/-- The 16 bytes of an SPU block (R102, R289): header, flags, nibble `2p` in the low half of byte `2 + p`. -/
def spuBytes (b : Best) (x : Cand) (flags : Byte) : List Byte :=
  [BitVec.ofNat 8 (16 * b.f + b.r), flags] ++
    (List.range 14).map fun p => (x.nib.getD (2 * p + 1) 0 ++ x.nib.getD (2 * p) 0 : BitVec 8)

/-- The blocks `j, j + 1, ...` of a mono stream, `n` of them, from a channel state (R170, R289). -/
def spuStream (samples : Nat → List Int) (flags : Nat → Byte) : Nat → Nat → Channel → List Byte
  | 0, _, _ => []
  | n + 1, j, v =>
    spuBytes (encodeBlock 5 v (samples j)).1 (encodeBlock 5 v (samples j)).2 (flags j) ++
      spuStream samples flags n (j + 1) (nextChannel 5 v (samples j))

/-- A channel's state before its block `j`, from the zero state on (R151, R170). -/
def channelBefore (fc : Nat) (samples : Nat → List Int) : Nat → Channel
  | 0 => ⟨0, 0, 0⟩
  | j + 1 => nextChannel fc (channelBefore fc samples j) (samples j)

/-- Block `j` of channel `k` of `ch` interleaved channels (R61, R152, R170). -/
def State.blockOf (s : State) (fc ch k j : Nat) : Best × Cand :=
  let samples := fun j => s.samples Config.hw (28 * j * ch + k) ch
  encodeBlock fc (channelBefore fc samples j) (samples j)

/-! ## The VAG header (R291) -/

/-- A number in `width` bytes, low byte first. -/
def lowFirst (width value : Nat) : List Byte := (List.range width).map fun i => BitVec.ofNat 8 (value / 256 ^ i)

/-- A number in `width` bytes, high byte first. -/
def highFirst (width value : Nat) : List Byte :=
  (List.range width).map fun i => BitVec.ofNat 8 (value / 256 ^ (width - 1 - i))

/-- The fields of the 48-byte header (R291), each where its value fits. -/
structure VagHeader (x : List Byte) (magic : Byte) (interleave dataLength frequency channels : Nat) : Prop where
  magicIs : x.take 4 = [0x56, 0x41, 0x47, magic]
  versionIs : (x.drop 0x04).take 4 = [0x00, 0x00, 0x00, 0x20]
  interleaveIs : interleave < 2 ^ 32 → (x.drop 0x08).take 4 = lowFirst 4 interleave
  dataLengthIs : dataLength < 2 ^ 32 → (x.drop 0x0C).take 4 = highFirst 4 dataLength
  frequencyIs : frequency < 2 ^ 32 → (x.drop 0x10).take 4 = highFirst 4 frequency
  reservedIs : (x.drop 0x14).take 10 = List.replicate 10 0
  channelsIs : channels < 2 ^ 16 → (x.drop 0x1E).take 2 = lowFirst 2 channels
  nameIs : (x.drop 0x20).take 16 = Config.hw.vagName

/-! ## Video -/

/-- The pairs of run and value of a block's AC coefficients in scan order (R211). -/
def runPairs : List (BitVec 10) → Nat → List (Nat × BitVec 10)
  | [], _ => []
  | v :: vs, run => if v = 0 then runPairs vs (run + 1) else (run, v) :: runPairs vs 0

/-- The AC coefficients of a block in scan order (R209, R210). -/
def scanOrder (q : QBlock) : List (BitVec 10) :=
  (List.range 63).map fun i => q.getD (Config.tableZagzig.getD (i + 1) 0) 0

/-- The 22 bits of a pair (R113). -/
def pairBits (p : Nat × BitVec 10) : List Bool := fieldBits 6 0b000001 ++ fieldBits 16 (1024 * p.1 + p.2.toNat)

/-- The bits of a packed block (R112, R113, R114, R211). -/
def blockBits (q : QBlock) : List Bool :=
  fieldBits 10 (q.getD 0 0).toNat ++ (runPairs (scanOrder q) 0).flatMap pairBits ++ fieldBits 2 0b10

/-- How many AC coefficients of a block are not 0. -/
def nonzeroAc (q : QBlock) : Nat := ((List.range 64).filter fun k => decide (0 < k) && decide (q.getD k 0 ≠ 0)).length

/-- The coefficient `k` of block `key` of `FB` in iteration `t` of the rate control (R206). -/
def cutCoef (fb : Store QBlock) (t key k : Nat) : BitVec 10 :=
  let v := ((Store.lookup fb key).getD []).getD k 0
  let cut := if key % 6 < 2 then Config.hw.cutChroma t else Config.hw.cutLuma t
  if 0 < k ∧ v.toInt.natAbs < cut then 0 else v

/-- `count(t)` of R206 over `n` macroblocks. -/
def cutCount (fb : Store QBlock) (n t : Nat) : Nat :=
  ((List.range (6 * n)).map fun key =>
    ((List.range 64).filter fun k => decide (0 < k) && decide (cutCoef fb t key k ≠ 0)).length).sum

/-- The quantised blocks of frame `n`, block `b` of macroblock `m` at `6 * m + b` (R37, R219). -/
def State.frameBlocks (s : State) (n : Nat) : Store QBlock :=
  let w := s.cfg.width.val
  let h := s.cfg.height.val
  Store.indexed 0 ((List.range (6 * nmb w h)).map fun key =>
    let p := Config.hw.mbOrder (macroblocks w) (macroblocks h) (key / 6)
    quantBlock Config.hw (dctBlock Config.hw ((macroblock Config.hw s w h n p.1 p.2).getD (key % 6) [])))

/-- The bits of the packed blocks of `n` macroblocks, in the order of step 5 of R219. -/
def packedBits (fbc : Store QBlock) (n : Nat) : List Bool :=
  (List.range (6 * n)).flatMap fun key => blockBits ((Store.lookup fbc key).getD [])

/-- The words those blocks count, each block rounded up to a multiple of 16 (R212). -/
def packedWords (fbc : Store QBlock) (n : Nat) : Nat :=
  ((List.range (6 * n)).map fun key => (2 + nonzeroAc ((Store.lookup fbc key).getD []) + 15) / 16 * 16).sum

/-- The condition of R218 under which frame `n` is certain to fit its chunks: `count` is the number of non-zero AC
coefficients in the first iteration of the rate control within the budget (R206). -/
def State.frameFits (s : State) (n : Nat) : Prop :=
  let m := nmb s.cfg.width.val s.cfg.height.val
  let count := cutCount (s.frameBlocks n) m
  ∃ t, count t ≤ 6500 ∧ (∀ u, u < t → 6500 < count u) ∧ m * 6 * 12 + 22 * count t + 12 ≤ 112896

/-- A little-endian field of `DMX` (R65, R67). -/
def State.dmxField (s : State) (a width : Nat) : Nat :=
  ((List.range width).map fun i => (s.dmxByte (a + i)).toNat * 256 ^ i).sum

/-! ## Sectors -/

/-- A byte of a sector with its four header bytes zeroed (R256, R258). -/
def zeroedAt (read : Nat → Byte) (a : Nat) : Nat := if 0x00C ≤ a ∧ a ≤ 0x00F then 0 else (read a).toNat

/-- A byte of `SEC` as SC.PQ reads it. -/
def State.zeroedByte (s : State) (a : Nat) : Nat := zeroedAt s.secByte a

/-- Exclusive or of `n` field elements. -/
def xorSum (n : Nat) (f : Nat → Nat) : Nat := (List.range n).foldl (fun e i => e ^^^ f i) 0

/-- Both checks of R255 for a codeword of `n` data symbols and the parity symbols `x`, `y`. -/
def codewordChecks (n : Nat) (d : Nat → Nat) (x y : Nat) : Prop :=
  y ^^^ x ^^^ xorSum n d = 0 ∧
    y ^^^ gmul (gfTables Config.hw) x 2 ^^^
      xorSum n (fun i => gmul (gfTables Config.hw) (d i) ((gfTables Config.hw).exp.getD (n + 1 - i) 0)) = 0

/-- Every P column and every Q diagonal of each byte lane of a sector meets both checks (R254, R255, R257 (e)). -/
def parityHolds (byte : Nat → Nat) : Prop :=
  (∀ c l, c < 43 → l < 2 →
    codewordChecks 24 (fun r => byte (0x00C + 2 * (43 * r + c) + l))
      (byte (0x81C + 2 * c + l)) (byte (0x81C + 86 + 2 * c + l))) ∧
  ∀ d l, d < 26 → l < 2 →
    codewordChecks 43 (fun k => byte (0x00C + 2 * ((43 * d + 44 * k) % 1118) + l))
      (byte (0x8C8 + 2 * d + l)) (byte (0x8C8 + 52 + 2 * d + l))

/-! ## Emitted sectors: `x` is a string of bytes, `o` where a sector's subheader (address 0x010) stands in it -/

/-- A BCD byte (R118). -/
def bcdByte (v : Nat) : Byte := BitVec.ofNat 8 (16 * (v / 10) + v % 10)

/-- The 16 bytes before the subheader for absolute sector number `a` (R243). -/
def headerBytes (a : Nat) : List Byte :=
  [0x00, 0xFF, 0xFF, 0xFF, 0xFF, 0xFF, 0xFF, 0xFF, 0xFF, 0xFF, 0xFF, 0x00, bcdByte (a / 4500),
    bcdByte ((a / 75) % 60), bcdByte (a % 75), 0x02]

/-- The subheader and its copy (R107, R241). -/
def State.subheaderAt (s : State) (x : List Byte) (o : Nat) (submode coding : Byte) : Prop :=
  let sub := [BitVec.ofNat 8 s.cfg.file.val, BitVec.ofNat 8 s.cfg.channel.val, submode, coding]
  (x.drop o).take 8 = sub ++ sub

/-- The EDC of the first `len` bytes stands right after them, low byte first (R248). -/
def edcAt (x : List Byte) (o len : Nat) : Prop :=
  ∀ i, i < 4 → x.getD (o + len + i) 0 = (edc Config.hw ((x.drop o).take len)).extractLsb' (8 * i) 8

/-- The parity of a whole sector (R256). -/
def parityAt (x : List Byte) (o : Nat) : Prop := parityHolds (zeroedAt fun a => x.getD (o - 0x010 + a) 0)

/-- The payload of XA sector `n` (R285 to R288): for each of the 8 units of the 18 sub-blocks the header byte at its two
positions and the 28 nibbles at its lane, then 20 zero bytes. -/
def State.xaPayloadAt (s : State) (x : List Byte) (o n : Nat) : Prop :=
  let ch := s.cfg.channels.val
  (∀ g u, g < 18 → u < 8 →
    let block := s.blockOf 4 ch (u % ch) (n * (144 / ch) + (8 * g + u) / ch)
    let p := o + 8 + 128 * g
    let h := p + (if u < 4 then u else 4 + u)
    let header := BitVec.ofNat 8 (16 * block.1.f + block.1.r)
    x.getD h 0 = header ∧ x.getD (h + 4) 0 = header ∧ ∀ i, i < 28 →
      (x.getD (p + 16 + 4 * i + u / 2) 0 >>> (4 * (u % 2))).setWidth 4 = block.2.nib.getD i 0) ∧
  ∀ i, i < 20 → x.getD (o + 8 + 2304 + i) 0 = 0

/-- The coding-info byte of an XA sector (R109). -/
def State.codingByte (s : State) : Byte :=
  BitVec.ofNat 8 ((if s.cfg.channels.val = 2 then 1 else 0) + (if s.cfg.frequency.val = 18900 then 4 else 0))

end Sys2Proof.Machine
end

