-- ==== Sys2Proof/Certificates/Slice0/Obligations.lean ====
section
/-! DEFINITION. The statements for the provers, each a proposition about the decoder, the step or a command. -/

open Sys2Proof Sys2Proof.Machine

/-! ## Encoding and step -/

/-- R90, R91, R92: a command decodes to an instruction exactly if it is that instruction's command. -/
def Obligations.DecodeInvertsEncode : Prop :=
  ∀ (cmd : Command) (i : Instr), decode cmd = .ok i ↔ cmd = encode i

/-- R91: command words written out from the opcode map. -/
def Obligations.OpcodeMapWordsDecode : Prop :=
  decode ⟨0x01, [10, 0x1FF]⟩ = .ok (.bwWrite 10 0x1FF) ∧
    decode ⟨0x13, [1, 2, 3, 4, 5, 0, 7]⟩ = .ok (.adEncode 1 2 3 4 5 0 7) ∧
    decode ⟨0x23, [5, 9]⟩ = .ok (.vdQuant 5 9) ∧ decode ⟨0x25, [9, 5]⟩ = .ok (.vdPack 9 5) ∧
    decode ⟨0x31, [0x64, 1]⟩ = .ok (.scInit 0x64 1) ∧ decode ⟨0x44, []⟩ = .ok .mxIso2raw ∧
    decode ⟨0xF0, []⟩ = .ok .sysReset ∧ decodeTableWord 8 0xF1 = some .sysValidate

/-- R90, R92: when the host's next action is a command that decodes, the step is that instruction's meaning, with the
action taken; and a table word placed by `withFetchWord` runs next. That actions wait in a list is the model's choice
(log 1). -/
def Obligations.StepRunsTheDecodedCommand : Prop :=
  (∀ (s : State) (cmd : Command) (rest : List HostMove) (i : Instr),
      s.moves = .command cmd :: rest → decode cmd = .ok i → step s = exec i { s with moves := rest }) ∧
    ∀ (s : State) (w : Nat) (i : Instr), decodeTableWord 8 w = some i → step (s.withFetchWord 8 w) = exec i s

/-- R92: an opcode outside the map of R91 takes the fault IllegalCommand with the opcode in `FINFO`, whatever its
operands; an opcode of the map never does so at decode. -/
def Obligations.IllegalOpcodeFaults : Prop :=
  ∀ (s : State) (cmd : Command) (rest : List HostMove), s.fault = false → s.moves = .command cmd :: rest →
    let legal := [0x01, 0x02, 0x10, 0x11, 0x12, 0x13, 0x20, 0x21, 0x22, 0x23, 0x24, 0x25, 0x26, 0x27, 0x28, 0x30, 0x31,
      0x32, 0x33, 0x34, 0x35, 0x40, 0x41, 0x42, 0x43, 0x44, 0xF0, 0xF1]
    (cmd.opcode.toNat ∉ legal → step s = .next { s with
      moves := rest, fault := true, fcause := .put 8, finfo := .put cmd.opcode.toNat, phase := .faulted }) ∧
    (cmd.opcode.toNat ∈ legal → ∀ op, decode cmd ≠ .error (.illegalOpcode op))

/-- R325, R326: while `FAULT` is 1 every command but SYS.RESET, legal or not, changes nothing. -/
def Obligations.FaultedBlockRefusesCommands : Prop :=
  ∀ (s : State) (cmd : Command) (rest : List HostMove), s.fault = true → s.moves = .command cmd :: rest →
    decode cmd ≠ .ok .sysReset → step s = .next { s with moves := rest }

/-- R323, R325: a simple command that takes a fault writes `FAULT`, `FCAUSE`, `FINFO` and `PHASE` and nothing else, and
the cause is one of the eleven codes. Simple is every command R323 does not list as a composite, and AD.ENCODE. That an
overrun inside BW.WRITE, VD.PACK or VD.END leaves nothing of the command behind is read from R323 (log 21, log 22). -/
def Obligations.SimpleFaultsArePrecise : Prop :=
  ∀ (i : Instr) (s t : State), i.simple = true → s.fault = false → exec i s = .next t → t.fault = true →
    ∃ code info, 1 ≤ code ∧ code ≤ 11 ∧
      t = { s with fault := true, fcause := .put code, finfo := .put info, phase := .faulted }

/-- R328: only SYS.RESET leaves FAULTED. -/
def Obligations.OnlyResetClearsFault : Prop :=
  ∀ s t : State, s.fault = true → step s = .next t → t.fault = false →
    ∃ rest, s.moves = .command (encode .sysReset) :: rest

/-! ## Reset and the system commands -/

/-- R46, R350: reset and SYS.RESET give every piece of the block's state its reset value; SYS.RESET runs also while a
fault stands and leaves the host's buffers and `SINK` alone. -/
def Obligations.ResetGivesTheTable : Prop :=
  State.reset.AtReset ∧ ∀ s : State, ∃ t, exec .sysReset s = .next t ∧ t.AtReset ∧ t.pcm = s.pcm ∧ t.rgba = s.rgba ∧
    t.iso = s.iso ∧ t.data = s.data ∧ t.sink = s.sink ∧ t.moves = s.moves

/-- R322, R352: with the fields of `CFG` written that the format reads, SYS.VALIDATE changes nothing if every clause holds,
and otherwise takes ConfigInvalid with the number of the first clause that fails; so do the four stream commands at
their start. That clause 7 passes over a field that is unwritten, and checks a written one also where the format does not
read it, is the model's reading of the two rules (log 31). -/
def Obligations.ValidateChecksEveryClause : Prop :=
  ∀ s : State, s.fault = false → s.cfg.Written →
    (s.cfg.Valid → exec .sysValidate s = .next s) ∧
    ∀ k, 1 ≤ k → k ≤ 7 → ¬ s.cfg.Clause k → (∀ n, 1 ≤ n → n < k → s.cfg.Clause n) →
      let failed : Result := .next { s with fault := true, fcause := .put 1, finfo := .put k, phase := .faulted }
      exec .sysValidate s = failed ∧
      (s.phase = .init → exec .mxXa s = failed ∧ exec .mxSpu s = failed ∧ exec .mxSpui s = failed ∧
        exec .mxStr s = failed)

/-- R40, R41, R332, R352: what each write of the host sets, and where it is refused. A field of `CFG` is written in
INIT alone; `PCM`, `RGBA` and `ISO` are declared and filled, and one of their bytes written, while no stream is under
way (U13); `DATA`, and the subheader and payload of `SEC`, in every phase; everything else is unchanged. That a value
beyond the widths of R40 (256 in `file` or `channel`, 2 in `loop`) leaves some value of the width, of which nothing more
is said, is the model's choice (log 45), as is that `CFG` keeps a selector that is none of the eight (log 40). The
refusals of `CFG` outside INIT and of `PCM`, `RGBA` and `ISO` mid-stream are the rules'; those of an address outside a
buffer's declared length (R60) and of `SEC` outside 0x010 to 0x92B (R332) are the model's reading of them (log 34). -/
def Obligations.HostWritesOnlyWhereAllowed : Prop :=
  ∀ (s : State) (rest : List HostMove),
    let run := fun m : HostMove => step { s with moves := m :: rest }
    let answer := fun g : Settings => (.next { s with moves := rest, cfg := g } : Result)
    let u : State := { s with moves := rest }
    let streaming := s.phase = .encoding ∨ s.phase = .finalize
    (s.phase = .init →
      (∀ v, run (.setting (.format v)) = answer { s.cfg with format := .put v }) ∧
      (∀ v, run (.setting (.frequency v)) = answer { s.cfg with frequency := .put v }) ∧
      (∀ v, run (.setting (.channels v)) = answer { s.cfg with channels := .put v }) ∧
      (∀ v, run (.setting (.bits v)) = answer { s.cfg with bits := .put v }) ∧
      (∀ v, ∃ x, x ≤ 255 ∧ (v ≤ 255 → x = v) ∧ run (.setting (.file v)) = answer { s.cfg with file := .put x }) ∧
      (∀ v, ∃ x, x ≤ 255 ∧ (v ≤ 255 → x = v) ∧ run (.setting (.channel v)) = answer { s.cfg with channel := .put x }) ∧
      (∀ v, run (.setting (.interleave v)) = answer { s.cfg with interleave := .put v }) ∧
      (∀ v, run (.setting (.alignment v)) = answer { s.cfg with alignment := .put v }) ∧
      (∀ v, ∃ x, x ≤ 1 ∧ (v ≤ 1 → x = v) ∧ run (.setting (.loop v)) = answer { s.cfg with loop := .put x }) ∧
      (∀ v, run (.setting (.width v)) = answer { s.cfg with width := .put v }) ∧
      ∀ v, run (.setting (.height v)) = answer { s.cfg with height := .put v }) ∧
    (s.phase ≠ .init → ∀ w, run (.setting w) = .refused (.hostWrite (.setting w))) ∧
    (¬ streaming →
      (∀ xs, run (.pcm xs) = .next { u with pcm := xs }) ∧
      (∀ bytes : List Byte,
        (∃ t, run (.buffer .rgba bytes) = .next t ∧ t = { u with rgba := t.rgba } ∧ t.rgba.size = bytes.length ∧
          ∀ a, a < bytes.length → t.rgbaByte a = bytes.getD a 0) ∧
        ∃ t, run (.buffer .iso bytes) = .next t ∧ t = { u with iso := t.iso } ∧ t.iso.size = bytes.length ∧
          ∀ a, a < bytes.length → t.isoByte a = bytes.getD a 0) ∧
      ∀ (a : Nat) (byte : Byte),
        (a < s.rgba.size → ∃ t, run (.store .rgba a byte) = .next t ∧ t = { u with rgba := t.rgba } ∧
          t.rgba.size = s.rgba.size ∧ ∀ i, t.rgbaByte i = if i = a then byte else s.rgbaByte i) ∧
        (a < s.iso.size → ∃ t, run (.store .iso a byte) = .next t ∧ t = { u with iso := t.iso } ∧
          t.iso.size = s.iso.size ∧ ∀ i, t.isoByte i = if i = a then byte else s.isoByte i)) ∧
    (∀ bytes : List Byte,
      ∃ t, run (.buffer .data bytes) = .next t ∧ t = { u with data := t.data } ∧ t.data.size = bytes.length ∧
        ∀ a, a < bytes.length → t.dataByte a = bytes.getD a 0) ∧
    (∀ (a : Nat) (byte : Byte),
      (a < s.data.size → ∃ t, run (.store .data a byte) = .next t ∧ t = { u with data := t.data } ∧
        t.data.size = s.data.size ∧ ∀ i, t.dataByte i = if i = a then byte else s.dataByte i) ∧
      (0x010 ≤ a → a ≤ 0x92B → ∃ t, run (.storeSec a byte) = .next t ∧ t = { u with sec := t.sec } ∧
        t.sec.size = s.sec.size ∧ ∀ i, t.secByte i = if i = a then byte else s.secByte i)) ∧
    ∀ m,
      (streaming ∧ ((∃ xs, m = .pcm xs) ∨ (∃ bytes, m = .buffer .rgba bytes ∨ m = .buffer .iso bytes) ∨
          ∃ a byte, m = .store .rgba a byte ∨ m = .store .iso a byte)) ∨
        (∃ a byte, m = .store .rgba a byte ∧ s.rgba.size ≤ a) ∨ (∃ a byte, m = .store .iso a byte ∧ s.iso.size ≤ a) ∨
        (∃ a byte, m = .store .data a byte ∧ s.data.size ≤ a) ∨
        (∃ a byte, m = .storeSec a byte ∧ (a < 0x010 ∨ 0x92B < a)) → run m = .refused (.hostWrite m)

/-- R46, R220, U1: a command that comes to read a piece of state nothing has written since reset is refused by the name of
the first such piece. Which checks of the command come before the read is the order of its pseudocode (R326), and the
model's reading where a rule gives none: that the AD commands read `CFG.channels` before every other check, whatever the
other operands are (log 19, log 30), that `cfg_valid` reads its fields one by one (log 31), that SEC is refused as a whole
(log 4). The last clauses are about stream commands under a format that is not their own (log 32); of MX.STR there, the
reads of SC.INIT inside it are not among them. -/
def Obligations.UnwrittenStateIsRefused : Prop :=
  ∀ s : State, s.fault = false →
    let g := s.cfg
    let refused := fun (i : Instr) (item : Item) => exec i s = .refused (.unwritten item)
    let nm := (g.width.val / 16) * (g.height.val / 16)
    let sized := g.width.written = true ∧ g.height.written = true
    (g.channels.written = false → ∀ c base stride f r fc dbase ds dp,
      refused (.adReset c) .cfgChannels ∧ refused (.adMinshift c base stride f) .cfgChannels ∧
      refused (.adTrial c base stride f r) .cfgChannels ∧
      refused (.adEncode c base stride fc dbase ds dp) .cfgChannels) ∧
    (∀ n mx my m b, b ≤ 5 → s.out.length ≤ 14112 →
      (g.width.written = false → refused (.vdCsc n mx my) .cfgWidth) ∧
      (g.width.written = true → mx < g.width.val / 16 → g.height.written = false →
        refused (.vdCsc n mx my) .cfgHeight) ∧
      ∀ i ∈ [Instr.vdQuant b m, .vdRate, .vdPack m b, .vdDemux],
        (g.width.written = false → refused i .cfgWidth) ∧
        (g.width.written = true → g.height.written = false → refused i .cfgHeight)) ∧
    (∀ n, ∀ i ∈ [Instr.vdBegin, .vdFrame n],
      (g.width.written = false → refused i .cfgWidth) ∧
      (g.width.written = true → 0 < g.width.val → g.width.val % 16 = 0 → g.height.written = false →
        refused i .cfgHeight)) ∧
    (s.mb.written = false → ∀ b, b ≤ 5 →
      refused (.vdDct b) .mb ∧ (sized → ∀ m, m < nm → refused (.vdQuant b m) .mb)) ∧
    (sized → (∀ m b, b ≤ 5 → m < nm → Store.lookup s.fbc (6 * m + b) = none → refused (.vdPack m b) .fbc) ∧
      ∀ key, key < 6 * nm → Store.lookup s.fb key = none → refused .vdRate .fb) ∧
    (∀ submode coding, submode ≤ 0xFF → coding ≤ 0xFF →
      (g.file.written = false → refused (.scInit submode coding) .cfgFile) ∧
      (g.file.written = true → g.channel.written = false → refused (.scInit submode coding) .cfgChannel)) ∧
    ((∀ a, s.sec.read? a = none) →
      refused (.scEmit 2352) .sec ∧ refused (.scEmit 2336) .sec ∧
      (s.tbuilt = true → refused (.scEdc 1) .sec ∧ refused (.scEdc 2) .sec ∧ refused .scPq .sec)) ∧
    (∀ (before after : List (Item × Bool)) (item : Item), g.checked = before ++ (item, true) :: after →
      (∀ p ∈ before, (p.2 = true → g.has p.1 = true) ∧ (g.has p.1 = true → g.FieldOk p.1)) → g.has item = false →
      refused .sysValidate item ∧
      (s.phase = .init → ∀ i ∈ [Instr.mxXa, .mxSpu, .mxSpui, .mxStr], refused i item)) ∧
    (s.phase = .init → s.iso.size % 2048 = 0 → 0 < s.iso.size →
      (g.file.written = false → refused .mxIso2raw .cfgFile) ∧
      (g.file.written = true → g.channel.written = false → refused .mxIso2raw .cfgChannel)) ∧
    (s.StreamReady → g.format.val.sectored = true → 0 < s.pcm.length / g.channels.val → g.loop.written = false →
      refused .mxSpu .cfgLoop ∧
      (g.interleave.written = true → 16 ≤ g.interleave.val → refused .mxSpui .cfgLoop)) ∧
    (s.StreamReady → ¬ g.format.val.interleaved → g.interleave.written = false → refused .mxSpui .cfgInterleave) ∧
    (s.StreamReady → g.format.val.sectored = false → 0 < s.pcm.length / g.channels.val → g.channels.val ≤ 4032 →
      (g.file.written = false → refused .mxXa .cfgFile) ∧
      (g.file.written = true → g.channel.written = false → refused .mxXa .cfgChannel)) ∧
    (s.StreamReady → ¬ g.format.val.video →
      (g.width.written = false → refused .mxStr .cfgWidth) ∧
      (g.width.written = true → g.height.written = false → refused .mxStr .cfgHeight))

/-! ## Bit Writer -/

/-- R131, R136 (a): BW.WRITE appends the field, most significant bit first, to the stream that `OUT` and the
accumulator spell; only `BW` and `OUT` change. -/
def Obligations.BitWriteAppendsField : Prop :=
  ∀ (s : State) (n value : Nat), s.fault = false → s.bwInv → s.outInv → n ≤ 16 → value < 2 ^ n →
    (s.bwLeft < n → s.room 2) →
    ∃ t, exec (.bwWrite n value) s = .next t ∧ t.bits = s.bits ++ fieldBits n value ∧ t.bwInv ∧ t.outInv ∧
      t = { s with bwAcc := t.bwAcc, bwLeft := t.bwLeft, out := t.out }

/-- R131: the registers after a BW.WRITE that fits into the free bits, and after one that straddles a word. -/
def Obligations.BitWriteRegisters : Prop :=
  ∀ (s : State) (n value : Nat), s.fault = false → n ≤ 16 → value < 2 ^ n →
    (n ≤ s.bwLeft → exec (.bwWrite n value) s = .next { s with
      bwAcc := s.bwAcc ||| BitVec.ofNat 16 (value * 2 ^ (s.bwLeft - n)), bwLeft := s.bwLeft - n }) ∧
    (s.bwLeft < n → s.room 2 →
      let word := s.bwAcc ||| BitVec.ofNat 16 (value / 2 ^ (n - s.bwLeft))
      exec (.bwWrite n value) s = .next { s with
        out := s.out ++ [word.extractLsb' 0 8, word.extractLsb' 8 8]
        bwAcc := BitVec.ofNat 16 (value % 2 ^ (n - s.bwLeft) * 2 ^ (16 - (n - s.bwLeft)))
        bwLeft := 16 - (n - s.bwLeft) })

/-- R135, R136 (c): BW.FLUSH pads the stream with zero bits up to a whole word and leaves an empty accumulator; with an
empty accumulator it changes nothing. -/
def Obligations.BitFlushPadsToAWord : Prop :=
  ∀ s : State, s.fault = false → s.bwInv → s.outInv → (s.bwLeft < 16 → s.room 2) →
    ∃ t, exec .bwFlush s = .next t ∧ t.bits = s.bits ++ List.replicate (s.bwLeft % 16) false ∧
      t.bwAcc = 0 ∧ t.bwLeft = 16 ∧ (s.bwLeft = 16 → t = s) ∧ 8 * t.out.length = t.bits.length ∧
      t = { s with bwAcc := t.bwAcc, bwLeft := t.bwLeft, out := t.out }

/-- The three faults of the unit (R138, R321) and the value each records; nothing else changes. That an overrun inside
a BW.WRITE leaves `BW.acc` and `BW.left` as they were is read from R323 against the order of R131 (log 21). The fault
of a full buffer is stated for every bound on `OUT` (OUT_CAP is OPEN, log 15), and the meanings of the two commands are
these operations under the configuration of the hardware. -/
def Obligations.BitWriterFaults : Prop :=
  ∀ (s : State) (n value : Nat), s.fault = false →
    let fail := fun (code info : Nat) => (.next { s with
      fault := true, fcause := .put code, finfo := .put info, phase := .faulted } : Result)
    (16 < n → exec (.bwWrite n value) s = fail 3 n) ∧
    (n ≤ 16 → 2 ^ n ≤ value → exec (.bwWrite n value) s = fail 2 value) ∧
    (exec (.bwWrite n value) s = bwWrite Config.hw n value s ∧ exec .bwFlush s = bwFlush Config.hw s) ∧
    ∀ cap : Nat, cap < s.out.length + 2 →
      let c : Config := { Config.hw with outCap := some cap }
      (Config.hw.outCap = some cap → c = Config.hw) ∧
      (n ≤ 16 → value < 2 ^ n → s.bwLeft < n → bwWrite c n value s = fail 4 s.out.length) ∧
      (s.bwLeft < 16 → bwFlush c s = fail 4 s.out.length)

/-! ## ADPCM Encoder -/

/-- R151: AD.RESET zeroes one channel and touches no other; a channel out of range is AdpcmOperand. -/
def Obligations.AdResetZeroesOneChannel : Prop :=
  ∀ (s : State) (c : Nat), s.fault = false → s.cfg.channels.written = true →
    (c < s.cfg.channels.val → ∃ t, exec (.adReset c) s = .next t ∧ t.channel c = ⟨0, 0, 0⟩ ∧
      (∀ d, d ≠ c → t.channel d = s.channel d) ∧ t = { s with ch := t.ch }) ∧
    (s.cfg.channels.val ≤ c → exec (.adReset c) s = .next { s with
      fault := true, fcause := .put 7, finfo := .put 0, phase := .faulted })

/-- R154: filter 0 has no coefficients; under every configuration in which it has none it predicts 0, and what a block
does with it does not depend on the channel's predictor state. -/
def Obligations.FilterZeroHasNoPrediction : Prop :=
  Config.hw.k1.getD 0 0 = 0 ∧ Config.hw.k2.getD 0 0 = 0 ∧
  ∀ c : Config, c.k1.getD 0 0 = 0 → c.k2.getD 0 0 = 0 → 1 ≤ c.predShift →
    (∀ p1 p2, predict c 0 p1 p2 = 0) ∧
    ∀ (v w : Channel) (xs : List Int) (r : Nat), xs.length = 28 → v.qerr = w.qerr →
      candOf c v xs 0 r = candOf c w xs 0 r ∧ minShiftOf c v xs 0 = minShiftOf c w xs 0

/-- R61, R152, R153: sample `i` of a block is the signed element of `PCM` at `base + i * stride`, 0 at or beyond its
length, and a block reads 28 of them; the prediction of each filter is the rounded sum of its two coefficients, in units
of 1/64, times the two samples before. -/
def Obligations.SampleFetchAndPrediction : Prop :=
  (∀ (s : State) (base stride i : Nat),
    (∀ x, s.pcm[base + i * stride]? = some x → s.sample base stride i = x.toInt) ∧
    (s.pcm.length ≤ base + i * stride → s.sample base stride i = 0)) ∧
  (∀ (s : State) (base stride : Nat), (s.samples Config.hw base stride).length = 28 ∧
    ∀ i, i < 28 → (s.samples Config.hw base stride).getD i 0 = s.sample base stride i) ∧
  ∀ p1 p2 : Int,
    predict Config.hw 0 p1 p2 = 0 ∧
    predict Config.hw 1 p1 p2 = (60 * p1 + 32) / 64 ∧
    predict Config.hw 2 p1 p2 = (115 * p1 - 52 * p2 + 32) / 64 ∧
    predict Config.hw 3 p1 p2 = (98 * p1 - 55 * p2 + 32) / 64 ∧
    predict Config.hw 4 p1 p2 = (122 * p1 - 60 * p2 + 32) / 64

/-- R155: AD.MINSHIFT leaves in `AD_MIN` the least shift under which every residual fits, with the input samples as
history, or 12 where none below 12 does; nothing else changes. -/
def Obligations.MinShiftIsTheLeastThatFits : Prop :=
  ∀ (s : State) (c base stride f : Nat), s.fault = false → s.cfg.channels.written = true →
    c < s.cfg.channels.val → 1 ≤ stride → f < 5 →
    ∃ m, exec (.adMinshift c base stride f) s = .next { s with adMin := .put m } ∧ m ≤ 12 ∧
      (m < 12 → blockFits f (s.channel c) (s.samples Config.hw base stride) m) ∧
      ∀ k, k < m → ¬ blockFits f (s.channel c) (s.samples Config.hw base stride) k

/-- R158, R159, R161: AD.TRIAL quantises each residual against the reconstruction so far; `CAND` holds the nibbles, the
last two reconstructed samples and the sum of squared errors; nothing else changes. -/
def Obligations.TrialFollowsTheReconstruction : Prop :=
  ∀ (s : State) (c base stride f r : Nat), s.fault = false → s.cfg.channels.written = true →
    c < s.cfg.channels.val → 1 ≤ stride → f < 5 → r ≤ 12 → (s.channel c).qerr = 0 →
    ∃ x : Cand, exec (.adTrial c base stride f r) s = .next { s with cand := .put x } ∧
      x.qerr = 0 ∧ x.nib.length = 28 ∧
      let v := s.channel c
      let xs := s.samples Config.hw base stride
      let ys := decodeBlock Config.hw f r x.nib v.prev1.toInt v.prev2.toInt
      (∀ i, i < 28 →
        let e := residualAt f v xs ys i
        (x.nib.getD i 0).toInt = clamp (if r = 0 then e else (e + (2 : Int) ^ (r - 1)) >>> r) (-8) 7) ∧
      x.prev1.toInt = ys.getD 27 0 ∧ x.prev2.toInt = ys.getD 26 0 ∧
      (x.mse.toNat : Int) = ((List.range 28).map fun i => (ys.getD i 0 - xs.getD i 0) ^ 2).sum

/-- R63, R166, R168: AD.ENCODE writes each of the 28 nibbles of the committed candidate at its lane and keeps every
other nibble and byte of `DATA`; it commits the two predictor registers of its channel and the result registers. -/
def Obligations.EncodeCommitsNibblesAndState : Prop :=
  ∀ (s : State) (c base stride fc dbase ds dp : Nat), s.fault = false → s.cfg.channels.written = true →
    c < s.cfg.channels.val → 1 ≤ stride → 1 ≤ fc → fc ≤ 5 → ds = 0 ∨ ds = 4 → 1 ≤ dp →
    (∀ i, i < 28 → dbase + i * dp < s.data.size) →
    ∃ (t : State) (b : Best) (x : Cand),
      exec (.adEncode c base stride fc dbase ds dp) s = .next t ∧
      (b, x) = encodeBlock fc (s.channel c) (s.samples Config.hw base stride) ∧
      (∀ i, i < 28 →
        (t.dataByte (dbase + i * dp) >>> ds).setWidth 4 = x.nib.getD i 0 ∧
        (t.dataByte (dbase + i * dp) >>> (4 - ds)).setWidth 4 = (s.dataByte (dbase + i * dp) >>> (4 - ds)).setWidth 4) ∧
      (∀ a, (∀ i, i < 28 → a ≠ dbase + i * dp) → t.dataByte a = s.dataByte a) ∧ t.data.size = s.data.size ∧
      t.channel c = ⟨(s.channel c).qerr, x.prev1, x.prev2⟩ ∧ (∀ d, d ≠ c → t.channel d = s.channel d) ∧
      t.cand = .put x ∧ t.best = .put b ∧ t.adMse = .put x.mse ∧ t.adHdr = .put (BitVec.ofNat 8 (16 * b.f + b.r)) ∧
      t = { s with data := t.data, ch := t.ch, cand := t.cand, best := t.best, adHdr := t.adHdr, adMse := t.adMse,
                   adMin := t.adMin }

/-- R165, R166, R167: the committed pair lies in its filter's window, its cost is the least of every filter and shift
tried, and every pair tried before it costs strictly more. -/
def Obligations.SearchPicksTheFirstLeastCost : Prop :=
  ∀ (v : Channel) (xs : List Int) (fc : Nat), 1 ≤ fc → fc ≤ 5 →
    let b := (encodeBlock fc v xs).1
    let cost := fun f r => (candOf Config.hw v xs f r).mse
    let tried := fun f r => f < fc ∧ r ≤ 12 ∧ minShiftOf Config.hw v xs f ≤ r + 1 ∧ r ≤ minShiftOf Config.hw v xs f + 1
    tried b.f b.r ∧ b.mse = some (cost b.f b.r) ∧ ∀ f r, tried f r →
      cost b.f b.r ≤ cost f r ∧ (f < b.f ∨ f = b.f ∧ r < b.r → cost b.f b.r < cost f r)

/-- R173: a block of zero samples gives header 0x00, zero cost and zero nibbles for every channel state and filter
count, and leaves the channel at (0, 0). The premise on `qerr` is the invariant of R24. -/
def Obligations.ZeroBlockEncodesToZero : Prop :=
  ∀ (s : State) (c base stride fc dbase ds dp : Nat), s.fault = false → s.cfg.channels.written = true →
    c < s.cfg.channels.val → 1 ≤ stride → 1 ≤ fc → fc ≤ 5 → ds = 0 ∨ ds = 4 → 1 ≤ dp →
    (∀ i, i < 28 → dbase + i * dp < s.data.size) → (s.channel c).qerr = 0 →
    (∀ i, i < 28 → s.sample base stride i = 0) →
    ∃ t, exec (.adEncode c base stride fc dbase ds dp) s = .next t ∧ t.adHdr.val = 0x00 ∧ t.adMse.val = 0 ∧
      (∀ i, i < 28 → (t.dataByte (dbase + i * dp) >>> ds).setWidth 4 = 0#4) ∧ t.channel c = ⟨0, 0, 0⟩

/-- R171, R172: the decoder of R171, given the header and the nibbles read back from `DATA` and the channel's state
before the block, ends in the channel's state after it; and each sample where no clamp acted is within half a step. -/
def Obligations.EncodeRoundTripsThroughTheDecoder : Prop :=
  ∀ (s : State) (c base stride fc dbase ds dp : Nat), s.fault = false → s.cfg.channels.written = true →
    c < s.cfg.channels.val → 1 ≤ stride → 1 ≤ fc → fc ≤ 5 → ds = 0 ∨ ds = 4 → 1 ≤ dp →
    (∀ i, i < 28 → dbase + i * dp < s.data.size) → (s.channel c).qerr = 0 →
    ∃ t, exec (.adEncode c base stride fc dbase ds dp) s = .next t ∧
      let v := s.channel c
      let f := t.adHdr.val.toNat / 16
      let r := t.adHdr.val.toNat % 16
      let nibs := (List.range 28).map fun i => (t.dataByte (dbase + i * dp) >>> ds).setWidth 4
      let ys := decodeBlock Config.hw f r nibs v.prev1.toInt v.prev2.toInt
      (t.channel c).prev1.toInt = ys.getD 27 0 ∧ (t.channel c).prev2.toInt = ys.getD 26 0 ∧
      ∀ i, i < 28 →
        let x := s.sample base stride i
        let e := residualAt f v (s.samples Config.hw base stride) ys i
        let q := if r = 0 then e else (e + (2 : Int) ^ (r - 1)) >>> r
        q ≥ -8 → q ≤ 7 → -32768 ≤ q * 2 ^ r + (x - e) → q * 2 ^ r + (x - e) ≤ 32767 →
          (r = 0 → ys.getD i 0 = x) ∧ (1 ≤ r → (ys.getD i 0 - x).natAbs ≤ 2 ^ (r - 1))

/-- R155, R159, R166, R321: an ADPCM operand out of range is AdpcmOperand with the operand's position, where the other
operands are in range; a nibble address outside `DATA` is AddressRange; nothing else changes. -/
def Obligations.AdpcmOperandFaults : Prop :=
  ∀ (s : State) (c base stride f r fc dbase ds dp : Nat), s.fault = false → s.cfg.channels.written = true →
    let fail := fun (code info : Nat) => (.next { s with
      fault := true, fcause := .put code, finfo := .put info, phase := .faulted } : Result)
    let lane := (ds = 0 ∨ ds = 4) ∧ 1 ≤ dp ∧ dbase + 27 * dp < s.data.size
    (s.cfg.channels.val ≤ c → 1 ≤ stride →
      (f < 5 → exec (.adMinshift c base stride f) s = fail 7 0) ∧
      (f < 5 → r ≤ 12 → exec (.adTrial c base stride f r) s = fail 7 0) ∧
      (1 ≤ fc → fc ≤ 5 → lane → exec (.adEncode c base stride fc dbase ds dp) s = fail 7 0)) ∧
    (c < s.cfg.channels.val →
      (1 ≤ stride → 5 ≤ f → exec (.adMinshift c base stride f) s = fail 7 3 ∧
        (r ≤ 12 → exec (.adTrial c base stride f r) s = fail 7 3)) ∧
      (stride = 0 → f < 5 → exec (.adMinshift c base stride f) s = fail 7 2 ∧
        (r ≤ 12 → exec (.adTrial c base stride f r) s = fail 7 2)) ∧
      (1 ≤ stride → f < 5 → 12 < r → exec (.adTrial c base stride f r) s = fail 7 4) ∧
      (1 ≤ stride → lane → (fc = 0 ∨ 5 < fc) → exec (.adEncode c base stride fc dbase ds dp) s = fail 7 3) ∧
      (stride = 0 → lane → 1 ≤ fc → fc ≤ 5 → exec (.adEncode c base stride fc dbase ds dp) s = fail 7 2) ∧
      (1 ≤ stride → 1 ≤ fc → fc ≤ 5 → 1 ≤ dp → dbase + 27 * dp < s.data.size → ds ≠ 0 → ds ≠ 4 →
        exec (.adEncode c base stride fc dbase ds dp) s = fail 7 5) ∧
      (1 ≤ stride → 1 ≤ fc → fc ≤ 5 → (ds = 0 ∨ ds = 4) → dbase < s.data.size → dp = 0 →
        exec (.adEncode c base stride fc dbase ds dp) s = fail 7 6) ∧
      (1 ≤ stride → 1 ≤ fc → fc ≤ 5 → (ds = 0 ∨ ds = 4) → 1 ≤ dp → s.data.size ≤ dbase + 27 * dp →
        ∃ a, s.data.size ≤ a ∧ exec (.adEncode c base stride fc dbase ds dp) s = fail 6 a))

/-! ## DCT Video Block Encoder -/

/-- R191: VD.BEGIN empties the bit writer, `OUT` and the word count and changes nothing else; a dimension that is not a
positive multiple of 16 is VideoDimension, the width checked first. -/
def Obligations.VdBeginResetsTheFrame : Prop :=
  ∀ s : State, s.fault = false → s.cfg.width.written = true → s.cfg.height.written = true →
    let w := s.cfg.width.val
    let h := s.cfg.height.val
    let fail := fun (info : Nat) => (.next { s with
      fault := true, fcause := .put 5, finfo := .put info, phase := .faulted } : Result)
    ((0 < w ∧ w % 16 = 0) → (0 < h ∧ h % 16 = 0) →
      exec .vdBegin s = .next { s with bwAcc := 0, bwLeft := 16, out := [], fcWords := 0 }) ∧
    (¬ (0 < w ∧ w % 16 = 0) → exec .vdBegin s = fail w) ∧
    ((0 < w ∧ w % 16 = 0) → ¬ (0 < h ∧ h % 16 = 0) → exec .vdBegin s = fail h)

/-- R193, R194: VD.CSC fills the six blocks from the pixels of its macroblock, and changes nothing else; a macroblock
or frame outside the video is AddressRange. -/
def Obligations.ColourTransformFillsSixBlocks : Prop :=
  ∀ (s : State) (n mx my : Nat), s.fault = false → s.cfg.width.written = true → s.cfg.height.written = true →
    let w := s.cfg.width.val
    let h := s.cfg.height.val
    let byte := fun (x y i : Nat) => (s.rgbaByte (4 * ((n * h + y) * w + x) + i)).toNat
    let sum := fun (x y i : Nat) => byte x y i + byte (x + 1) y i + byte x (y + 1) i + byte (x + 1) (y + 1) i
    (mx < w / 16 → my < h / 16 → 4 * ((n + 1) * h * w) ≤ s.rgba.size →
      ∃ mb, exec (.vdCsc n mx my) s = .next { s with mb := .put mb } ∧ mb.length = 6 ∧
        (∀ b, b < 6 → (mb.getD b []).length = 64) ∧
        ∀ k, k < 64 →
          (let x := 16 * mx + 2 * (k % 8)
           let y := 16 * my + 2 * (k / 8)
           (mb.getD 0 []).getD k 0 = Config.hw.cscCr (sum x y 0) (sum x y 1) (sum x y 2) ∧
           (mb.getD 1 []).getD k 0 = Config.hw.cscCb (sum x y 0) (sum x y 1) (sum x y 2)) ∧
          ∀ b, 2 ≤ b → b < 6 →
            let x := 16 * mx + 8 * ((b - 2) % 2) + k % 8
            let y := 16 * my + 8 * ((b - 2) / 2) + k / 8
            (mb.getD b []).getD k 0 = Config.hw.cscY (byte x y 0) (byte x y 1) (byte x y 2) - 0x200) ∧
    (¬ (mx < w / 16 ∧ my < h / 16 ∧ 4 * ((n + 1) * h * w) ≤ s.rgba.size) →
      ∃ info, exec (.vdCsc n mx my) s = .next { s with
        fault := true, fcause := .put 6, finfo := .put info, phase := .faulted })

/-- R194, R196, R221 (b): a black macroblock gives chroma 0 and luma -0x200, and after the transform and the quantiser
every AC coefficient of its luma blocks and every coefficient of its chroma blocks is 0, whatever the OPEN parameters
are. -/
def Obligations.BlackMacroblockHasNoAc : Prop :=
  (∀ (s : State) (n mx my : Nat), s.fault = false → s.cfg.width.written = true → s.cfg.height.written = true →
    mx < s.cfg.width.val / 16 → my < s.cfg.height.val / 16 →
    4 * ((n + 1) * s.cfg.height.val * s.cfg.width.val) ≤ s.rgba.size →
    (∀ x y i, 16 * mx ≤ x → x < 16 * mx + 16 → 16 * my ≤ y → y < 16 * my + 16 → i < 3 →
      s.rgbaByte (4 * ((n * s.cfg.height.val + y) * s.cfg.width.val + x) + i) = 0) →
    let black := List.replicate 2 (List.replicate 64 0) ++ List.replicate 4 (List.replicate 64 (-0x200))
    exec (.vdCsc n mx my) s = .next { s with mb := .put black }) ∧
  (∀ k, 1 ≤ k → k < 64 → (quantBlock Config.hw (dctBlock Config.hw (List.replicate 64 (-0x200)))).getD k 0 = 0) ∧
  ∀ k, k < 64 → (quantBlock Config.hw (dctBlock Config.hw (List.replicate 64 0))).getD k 0 = 0

/-- R198: VD.DCT replaces one block by its transform: two transposing passes with rounding, the DC division, the final
division; nothing else changes; a block number above 5 is AddressRange. The premise `mbInv` is an invariant of its own
statement. -/
def Obligations.DctTransformsOneBlock : Prop :=
  ∀ (s : State) (b : Nat), s.fault = false →
    (b ≤ 5 → s.mb.written = true → s.mbInv →
      ∃ mb y, exec (.vdDct b) s = .next { s with mb := .put mb } ∧ mb.length = 6 ∧ mb.getD b [] = y ∧
        (∀ d, d ≠ b → mb.getD d [] = s.mb.val.getD d []) ∧
        let scale := fun (i k : Nat) => Config.tableScale.getD (8 * i + k) 0
        let x := fun (j k : Nat) => (s.mb.val.getD b []).getD (8 * j + k) 0
        let pass := fun (x : Nat → Nat → Int) (i j : Nat) =>
          (((List.range 8).map fun k => x j k * scale i k).sum + 8192) >>> 14
        y.length = 64 ∧ ∀ u v, u < 8 → v < 8 →
          let z := pass (pass x) u v
          y.getD (8 * u + v) 0 =
            Int.tdiv (if u = 0 ∧ v = 0 then Int.tdiv z Config.hw.dcDiv else z) Config.hw.allDiv) ∧
    (5 < b → exec (.vdDct b) s = .next { s with
      fault := true, fcause := .put 6, finfo := .put b, phase := .faulted })

/-- R201: with every input element in -512..511, the sums and results of both passes keep the stated bounds. -/
def Obligations.DctPassesStayInBounds : Prop :=
  ∀ x : Block, (∀ k, k < 64 → -512 ≤ x.getD k 0 ∧ x.getD k 0 ≤ 511) →
    let sum := fun (x : Block) (i j : Nat) =>
      ((List.range 8).map fun k => x.getD (8 * j + k) 0 * Config.hw.scale.getD (8 * i + k) 0).sum
    let y := dctPass Config.hw x
    ∀ i j, i < 8 → j < 8 →
      (sum x i j).natAbs ≤ 94906368 ∧ (y.getD (8 * i + j) 0).natAbs ≤ 5793 ∧
      (sum y i j).natAbs ≤ 1073813652 ∧ ((dctPass Config.hw y).getD (8 * i + j) 0).natAbs ≤ 65541

/-- R36, R202: VD.QUANT divides each coefficient, zeroes those below their threshold, clamps to 10 signed bits and
writes the block into the snapshot; nothing else changes; an index out of range is AddressRange. -/
def Obligations.QuantWritesTheSnapshot : Prop :=
  ∀ (s : State) (b m : Nat), s.fault = false → s.cfg.width.written = true → s.cfg.height.written = true →
    let n := (s.cfg.width.val / 16) * (s.cfg.height.val / 16)
    (b ≤ 5 → m < n → s.mb.written = true →
      ∃ (t : State) (q : QBlock), exec (.vdQuant b m) s = .next t ∧ t = { s with fb := t.fb } ∧
        Store.lookup t.fb (6 * m + b) = some q ∧ (∀ key, key ≠ 6 * m + b → Store.lookup t.fb key = Store.lookup s.fb key) ∧
        q.length = 64 ∧ ∀ k, k < 64 →
          let pre := (s.mb.val.getD b []).getD k 0
          (q.getD k 0).toInt =
            clamp (if pre.natAbs < Config.hw.zthresh k then 0 else Int.tdiv pre (Config.tableQuant.getD k 0)) (-512) 511) ∧
    (¬ (b ≤ 5 ∧ m < n) → ∃ info, exec (.vdQuant b m) s = .next { s with
      fault := true, fcause := .put 6, finfo := .put info, phase := .faulted })

/-- R206, R207, R208, E6: VD.RATE takes the first cutoff iteration within the budget of 6500, writes the cut copy of
every block, never touches a DC coefficient, and leaves a snapshot already within the budget as it is. -/
def Obligations.RateControlMeetsTheBudget : Prop :=
  ∀ s : State, s.fault = false → s.cfg.width.written = true → s.cfg.height.written = true →
    let n := (s.cfg.width.val / 16) * (s.cfg.height.val / 16)
    (∀ key, key < 6 * n → (Store.lookup s.fb key).isSome = true) →
    ∃ (t : State) (T : Nat), exec .vdRate s = .next t ∧ t = { s with fbc := t.fbc } ∧
      cutCount s.fb n T ≤ 6500 ∧ (∀ u, u < T → 6500 < cutCount s.fb n u) ∧
      (∀ key, key < 6 * n → ∃ q, Store.lookup t.fbc key = some q ∧ q.length = 64 ∧
        ∀ k, k < 64 → q.getD k 0 = cutCoef s.fb T key k) ∧
      (∀ key, 6 * n ≤ key → Store.lookup t.fbc key = Store.lookup s.fbc key) ∧
      ((List.range (6 * n)).map fun key => nonzeroAc ((Store.lookup t.fbc key).getD [])).sum ≤ 6500 ∧
      (T = 0 → ∀ key k, key < 6 * n → k < 64 →
        ((Store.lookup t.fbc key).getD []).getD k 0 = ((Store.lookup s.fb key).getD []).getD k 0)

/-- R211, R212, R214 (f): VD.PACK appends the block's DC field, its pairs in scan order and the end marker, 12 bits and
22 for each AC coefficient that is not 0, and advances the word count to the next multiple of 16; a block or macroblock
out of range is AddressRange. -/
def Obligations.PackWritesTheBlockBits : Prop :=
  ∀ (s : State) (m b : Nat), s.fault = false → s.cfg.width.written = true → s.cfg.height.written = true →
    let n := (s.cfg.width.val / 16) * (s.cfg.height.val / 16)
    (∀ q : QBlock, b ≤ 5 → m < n → Store.lookup s.fbc (6 * m + b) = some q →
      s.bwInv → s.outInv → s.room (2 * ((16 - s.bwLeft + (12 + 22 * nonzeroAc q)) / 16)) →
      ∃ t, exec (.vdPack m b) s = .next t ∧ t.bits = s.bits ++ blockBits q ∧
        (blockBits q).length = 12 + 22 * nonzeroAc q ∧
        t.fcWords = (s.fcWords + 2 + nonzeroAc q + 15) / 16 * 16 ∧ t.bwInv ∧ t.outInv ∧
        t = { s with bwAcc := t.bwAcc, bwLeft := t.bwLeft, out := t.out, fcWords := t.fcWords }) ∧
    (¬ (b ≤ 5 ∧ m < n) → ∃ info, exec (.vdPack m b) s = .next { s with
      fault := true, fcause := .put 6, finfo := .put info, phase := .faulted })

/-- R115, R213: VD.END appends the sentinel and the end marker, counts two words and rounds, and flushes. -/
def Obligations.EndTerminatesTheFrame : Prop :=
  ∀ s : State, s.fault = false → s.bwInv → s.outInv → s.room (2 * ((16 - s.bwLeft + 12 + 15) / 16)) →
    ∃ (t : State) (pad : Nat), exec .vdEnd s = .next t ∧ pad < 16 ∧
      t.bits = s.bits ++ fieldBits 10 0x1FF ++ fieldBits 2 0b10 ++ List.replicate pad false ∧
      t.bwAcc = 0 ∧ t.bwLeft = 16 ∧ 8 * t.out.length = t.bits.length ∧ t.outInv ∧
      t.fcWords = (s.fcWords + 2 + 15) / 16 * 16 ∧
      t = { s with bwAcc := t.bwAcc, bwLeft := t.bwLeft, out := t.out, fcWords := t.fcWords }

/-- VD.DEMUX writes seven slots, each a header and 2016 bytes of the packed stream or zero fill, and counts the frame
(R215); a stream above 14112 bytes is FrameOverflow (R218). The header fields are the layout R217 suggests, which R11
lists as this hardware's value (log 18): R217 admits a second layout, with the two stamps and the byte count zero. -/
def Obligations.DemuxSplitsIntoSevenChunks : Prop :=
  ∀ s : State, s.fault = false → s.cfg.width.written = true → s.cfg.height.written = true →
    (s.out.length ≤ 14112 →
      ∃ t, exec .vdDemux s = .next t ∧ t = { s with dmx := t.dmx, fcFrameIndex := s.fcFrameIndex + 1 } ∧
        t.dmx.size = s.dmx.size ∧ ∀ j, j < 7 →
          (∀ i, i < 2016 → t.dmxByte (2048 * j + 32 + i) = s.out.getD (2016 * j + i) 0) ∧
          t.dmxField (2048 * j) 2 = 0x0160 ∧ t.dmxField (2048 * j + 2) 2 = 0x8001 ∧
          t.dmxField (2048 * j + 4) 2 = j ∧ t.dmxField (2048 * j + 6) 2 = 7 ∧
          (s.fcFrameIndex < 2 ^ 32 → t.dmxField (2048 * j + 8) 4 = s.fcFrameIndex) ∧
          t.dmxField (2048 * j + 12) 4 = s.out.length ∧
          (s.cfg.width.val < 2 ^ 16 → t.dmxField (2048 * j + 16) 2 = s.cfg.width.val) ∧
          (s.cfg.height.val < 2 ^ 16 → t.dmxField (2048 * j + 18) 2 = s.cfg.height.val) ∧
          (s.fcWords / 16 < 2 ^ 16 → t.dmxField (2048 * j + 20) 2 = s.fcWords / 16) ∧
          t.dmxField (2048 * j + 22) 2 = 0x3800 ∧
          (s.fcQscale = 1 → t.dmxField (2048 * j + 24) 2 = 1) ∧
          t.dmxField (2048 * j + 26) 2 = 2 ∧ t.dmxField (2048 * j + 28) 4 = 0) ∧
    (14112 < s.out.length → exec .vdDemux s = .next { s with
      fault := true, fcause := .put 11, finfo := .put s.out.length, phase := .faulted })

/-- R218, R219: VD.FRAME runs to its end on every frame that is certain to fit its seven chunks: one that meets R218's
condition, and every one of at most 13 macroblocks, the largest count that meets it whatever the pixels are. `FB` holds
the quantised blocks of the frame, `FBC` their copy cut at the first iteration within the budget, `OUT` the packed blocks
in order, the terminator and the padding, and the chunks hold `OUT`; only the video state changes. That the
stream finds room in `OUT` is R11's bound on OUT_CAP (log 15). -/
def Obligations.FrameCompletesWhenItFits : Prop :=
  ∀ (s : State) (n : Nat), s.fault = false → s.cfg.width.written = true → s.cfg.height.written = true →
    let w := s.cfg.width.val
    let h := s.cfg.height.val
    let nm := (w / 16) * (h / 16)
    0 < w → w % 16 = 0 → 0 < h → h % 16 = 0 → nm ≤ 13 ∨ s.frameFits n → 4 * ((n + 1) * h * w) ≤ s.rgba.size →
    ∃ (t : State) (T pad : Nat), exec (.vdFrame n) s = .next t ∧ t.fault = false ∧ t.bwAcc = 0 ∧ t.bwLeft = 16 ∧
      t.outInv ∧ t.out.length ≤ 14112 ∧ pad < 16 ∧
      t.bits = packedBits t.fbc nm ++ fieldBits 10 0x1FF ++ fieldBits 2 0b10 ++ List.replicate pad false ∧
      cutCount (s.frameBlocks n) nm T ≤ 6500 ∧ (∀ u, u < T → 6500 < cutCount (s.frameBlocks n) nm u) ∧
      (∀ key, key < 6 * nm → ∃ q, Store.lookup t.fbc key = some q ∧ q.length = 64 ∧
        ∀ k, k < 64 → q.getD k 0 = cutCoef (s.frameBlocks n) T key k) ∧
      t.fcWords = packedWords t.fbc nm + 16 ∧ t.fcWords % 16 = 0 ∧ t.fcFrameIndex = s.fcFrameIndex + 1 ∧
      ((List.range (6 * nm)).map fun key => nonzeroAc ((Store.lookup t.fbc key).getD [])).sum ≤ 6500 ∧
      (∀ j i, j < 7 → i < 2016 → t.dmxByte (2048 * j + 32 + i) = t.out.getD (2016 * j + i) 0) ∧
      (∀ key, key < 6 * nm → Store.lookup t.fb key = Store.lookup (s.frameBlocks n) key) ∧
      t = { s with mb := t.mb, fb := t.fb, fbc := t.fbc, bwAcc := t.bwAcc, bwLeft := t.bwLeft, out := t.out,
                   fcWords := t.fcWords, dmx := t.dmx, fcFrameIndex := t.fcFrameIndex }

/-! ## Sector Assembler -/

/-- R245: SC.TABLES sets the built mark and nothing else; again, it changes nothing. -/
def Obligations.TablesSetTheBuiltMark : Prop :=
  ∀ s : State, s.fault = false →
    exec .scTables s = .next { s with tbuilt := true } ∧ (s.tbuilt = true → exec .scTables s = .next s)

/-- R250, R251: the antilog table is the walk of the generator through every non-zero byte, and the log table is its
inverse. -/
def Obligations.GfTablesWalkTheField : Prop :=
  let t := gfTables Config.hw
  t.exp.length = 255 ∧ t.exp.getD 0 0 = 1 ∧
    (∀ i, i < 254 → t.exp.getD (i + 1) 0 =
      if 2 * t.exp.getD i 0 < 256 then 2 * t.exp.getD i 0 else (2 * t.exp.getD i 0) ^^^ 0x11D) ∧
    (∀ x, 1 ≤ x → x ≤ 255 → t.log.getD x 0 < 255 ∧ t.exp.getD (t.log.getD x 0) 0 = x) ∧
    ∀ i, i < 255 → t.log.getD (t.exp.getD i 0) 0 = i

/-- R241: SC.INIT zeroes the first 16 bytes of `SEC`, writes the subheader and its copy, and leaves every other byte;
an operand wider than a byte is AddressRange. -/
def Obligations.InitWritesTheSubheaderTwice : Prop :=
  ∀ (s : State) (submode coding : Nat), s.fault = false → s.cfg.file.written = true → s.cfg.channel.written = true →
    (submode ≤ 0xFF → coding ≤ 0xFF → ∃ t, exec (.scInit submode coding) s = .next t ∧ t = { s with sec := t.sec } ∧
      (∀ a, a < 0x010 → t.sec.read? a = some 0) ∧
      (∀ a, a = 0x012 ∨ a = 0x016 → t.sec.read? a = some (BitVec.ofNat 8 submode)) ∧
      (∀ a, a = 0x013 ∨ a = 0x017 → t.sec.read? a = some (BitVec.ofNat 8 coding)) ∧
      (s.cfg.file.val ≤ 255 → ∀ a, a = 0x010 ∨ a = 0x014 → t.sec.read? a = some (BitVec.ofNat 8 s.cfg.file.val)) ∧
      (s.cfg.channel.val ≤ 255 → ∀ a, a = 0x011 ∨ a = 0x015 →
        t.sec.read? a = some (BitVec.ofNat 8 s.cfg.channel.val)) ∧
      (∀ a, 0x018 ≤ a → t.sec.read? a = s.sec.read? a)) ∧
    (0xFF < submode ∨ 0xFF < coding → ∃ info, exec (.scInit submode coding) s = .next { s with
      fault := true, fcause := .put 6, finfo := .put info, phase := .faulted })

/-- R118, R243, R244: SC.STAMP writes the sync pattern, the BCD minute, second and sector and the mode byte, and leaves
every byte from 0x010 on; a minute above 99 is AddressRange. SC_LBA_BASE is OPEN, so this holds for each `base`, of which
the hardware takes one (log 16); one of the two always happens. -/
def Obligations.StampWritesBcdTime : Prop :=
  ∀ (s : State) (lba base : Nat), s.fault = false →
    let a := lba + base
    let bcdOf := fun (v : Nat) => (16 * (v / 10) + v % 10)
    let run := scStamp (Config.withBase base) lba s
    (base = Config.hw.lbaBase → exec (.scStamp lba) s = run) ∧ (∃ t, exec (.scStamp lba) s = .next t) ∧
    (a / 4500 ≤ 99 → ∃ t, run = .next t ∧ t = { s with sec := t.sec } ∧
      (∀ i, i < 12 → t.sec.read? i = some (if i = 0 ∨ i = 11 then 0x00 else 0xFF)) ∧
      t.sec.read? 0x00C = some (BitVec.ofNat 8 (bcdOf (a / 4500))) ∧
      t.sec.read? 0x00D = some (BitVec.ofNat 8 (bcdOf ((a / 75) % 60))) ∧
      t.sec.read? 0x00E = some (BitVec.ofNat 8 (bcdOf (a % 75))) ∧ t.sec.read? 0x00F = some 0x02 ∧
      (∀ i, 0x010 ≤ i → t.sec.read? i = s.sec.read? i)) ∧
    (99 < a / 4500 → run = .next { s with
      fault := true, fcause := .put 6, finfo := .put lba, phase := .faulted })

/-- R248, R249 (e): SC.EDC stores the checksum of its range, low byte first, right after it, and changes no other byte;
issued again it changes no byte; before SC.TABLES it is TablesNotBuilt, and a form that is neither 1 nor 2 is
AddressRange. -/
def Obligations.EdcIsStoredAfterItsRange : Prop :=
  ∀ (s : State) (form : Nat), s.fault = false →
    let fail := fun (code info : Nat) => (.next { s with
      fault := true, fcause := .put code, finfo := .put info, phase := .faulted } : Result)
    (s.tbuilt = true → form = 1 ∨ form = 2 → s.sec.cells ≠ [] →
      let len := if form = 1 then 0x808 else 0x91C
      let e := edc Config.hw (bytesOf s.secByte 0x010 len)
      ∃ t, exec (.scEdc form) s = .next t ∧ t = { s with sec := t.sec } ∧
        (∀ i, i < 4 → t.sec.read? (0x010 + len + i) = some (e.extractLsb' (8 * i) 8)) ∧
        (∀ a, a < 0x010 + len ∨ 0x010 + len + 4 ≤ a → t.sec.read? a = s.sec.read? a) ∧
        ∃ u, exec (.scEdc form) t = .next u ∧ ∀ a, u.sec.read? a = t.sec.read? a) ∧
    (s.tbuilt = false → exec (.scEdc form) s = fail 10 0x33) ∧
    (s.tbuilt = true → form ≠ 1 → form ≠ 2 → exec (.scEdc form) s = fail 6 form)

/-- R247, R248, R249 (b), (c): the checksum of no bytes is 0, and each further byte steps it by the table of the
polynomial 0xD8018001; so it is linear, of zero bytes it is 0, and two strings of one length that differ in one byte have
different checksums. The bit direction and the initial value are R11's (log 11). -/
def Obligations.EdcDetectsAChangedByte : Prop :=
  (let bit := fun e : BitVec 32 => (e >>> 1) ^^^ (if e.getLsbD 0 then 0xD8018001#32 else 0#32)
   let table := fun i : BitVec 32 => bit (bit (bit (bit (bit (bit (bit (bit i)))))))
   edc Config.hw [] = 0 ∧ (∀ i, edcLut Config.hw i = table i) ∧
   ∀ (bs : List Byte) (b : Byte), edc Config.hw (bs ++ [b]) =
     (edc Config.hw bs >>> 8) ^^^ table ((edc Config.hw bs ^^^ b.setWidth 32) &&& 0xFF#32)) ∧
  (∀ xs ys : List Byte, xs.length = ys.length →
    edc Config.hw (List.zipWith (fun x y => x ^^^ y) xs ys) = edc Config.hw xs ^^^ edc Config.hw ys) ∧
  (∀ n, edc Config.hw (List.replicate n 0) = 0) ∧
  ∀ (before after : List Byte) (x y : Byte), x ≠ y →
    edc Config.hw (before ++ x :: after) ≠ edc Config.hw (before ++ y :: after)

/-- R256: SC.PQ writes the 276 parity bytes, restores the header bytes it zeroes, saves them in `TS_SAVE`, and changes
nothing else. -/
def Obligations.ParityLeavesTheSectorBody : Prop :=
  ∀ s : State, s.fault = false → s.tbuilt = true → s.sec.cells ≠ [] →
    ∃ t, exec .scPq s = .next t ∧ t = { s with sec := t.sec, tsSave := t.tsSave } ∧
      (∀ a, a < 0x81C ∨ 0x930 ≤ a → t.secByte a = s.secByte a) ∧
      (∀ a, 0x81C ≤ a → a < 0x930 → (t.sec.read? a).isSome = true) ∧
      t.tsSave = .put [s.secByte 0x00C, s.secByte 0x00D, s.secByte 0x00E, s.secByte 0x00F]

/-- R254, R255, R257 (e): after SC.PQ every P column and every Q diagonal of each byte lane meets both parity checks,
the header read as zeroed. -/
def Obligations.ParityChecksHold : Prop :=
  ∀ s : State, s.fault = false → s.tbuilt = true → s.sec.cells ≠ [] → ∃ t, exec .scPq s = .next t ∧
    parityHolds t.zeroedByte

/-- R257 (a), (b), R258: under PQ_ZERO_MODE = true, the value this hardware takes (log 11), the parity bytes do not depend
on the header bytes 0x000 to 0x00F, the mode byte included: two sectors that agree from 0x010 to 0x81B get the same
parity. -/
def Obligations.ParityIgnoresTheTimestamp : Prop :=
  ∀ s u : State, s.fault = false → u.fault = false → s.tbuilt = true → u.tbuilt = true → s.sec.cells ≠ [] →
    u.sec.cells ≠ [] → (∀ a, 0x010 ≤ a → a < 0x81C → s.secByte a = u.secByte a) →
    ∃ t v, exec .scPq s = .next t ∧ exec .scPq u = .next v ∧ ∀ a, 0x81C ≤ a → a < 0x930 → t.secByte a = v.secByte a

/-- R246: SC.EDC and SC.PQ before SC.TABLES take TablesNotBuilt and change nothing else. -/
def Obligations.TablesNotBuiltFaults : Prop :=
  ∀ (s : State) (form : Nat), s.fault = false → s.tbuilt = false →
    exec (.scEdc form) s = .next { s with
      fault := true, fcause := .put 10, finfo := .put 0x33, phase := .faulted } ∧
    exec .scPq s = .next { s with fault := true, fcause := .put 10, finfo := .put 0x34, phase := .faulted }

/-- R259: SC.EMIT appends the whole sector or the sector without its first 16 bytes to `SINK` and changes nothing else;
any other size is AddressRange. -/
def Obligations.EmitAppendsTheSector : Prop :=
  ∀ (s : State) (size : Nat), s.fault = false → s.sec.cells ≠ [] →
    (size = 2352 ∨ size = 2336 → ∃ x, exec (.scEmit size) s = .next { s with sink := s.sink ++ x } ∧ x.length = size ∧
      ∀ i, i < size → x.getD i 0 = s.secByte (2352 - size + i)) ∧
    (size ≠ 2352 → size ≠ 2336 → exec (.scEmit size) s = .next { s with
      fault := true, fcause := .put 6, finfo := .put size, phase := .faulted })

/-! ## Stream Multiplexers -/

/-- R281, R282, R321: an MX command outside INIT takes PhaseViolation with the phase's number; nothing else changes. -/
def Obligations.StreamsStartInInitOnly : Prop :=
  ∀ (s : State) (i : Instr), s.fault = false → i.mx = true →
    let fail := fun (info : Nat) => (.next { s with
      fault := true, fcause := .put 9, finfo := .put info, phase := .faulted } : Result)
    (s.phase = .encoding → exec i s = fail 1) ∧ (s.phase = .finalize → exec i s = fail 2) ∧
    (s.phase = .done → exec i s = fail 3)

/-- R283, R289, R291, R292: MX.SPU appends, after the VAG header if the format is `vag`, one 16-byte block for each 28
samples: the header byte, the flag byte and the nibbles of the block encoded from the channel's state after the block
before it, from the zero state on. The loop end bit stands on the last block alone. The buffers have their sizes, which
every step keeps (StepKeepsBuffersCanonical). -/
def Obligations.SpuStreamIsTheBlocksInOrder : Prop :=
  ∀ s : State, s.StreamReady → s.memInv → s.cfg.format.val = .spu ∨ s.cfg.format.val = .vag →
    let total := s.pcm.length
    let blocks := (total + 27) / 28
    let flags := fun j : Nat => BitVec.ofNat 8
      ((if j = 0 ∧ s.cfg.loop.val = 1 then 4 else 0) + (if j + 1 = blocks then 1 else 0) +
        (if j + 1 = blocks ∧ s.cfg.loop.val = 1 then 2 else 0))
    ∃ (t : State) (header : List Byte), exec .mxSpu s = .next t ∧ t.phase = .done ∧ t.fault = false ∧
      t.sink = s.sink ++ header ++ spuStream (fun j => s.samples Config.hw (28 * j) 1) flags blocks 0 ⟨0, 0, 0⟩ ∧
      (s.cfg.format.val = .spu → header = []) ∧
      (s.cfg.format.val = .vag → header.length = 48 ∧
        VagHeader header 0x70 0 (16 * blocks) s.cfg.frequency.val 0) ∧
      t = { s with ch := t.ch, cand := t.cand, best := t.best, adHdr := t.adHdr, adMse := t.adMse, adMin := t.adMin,
                   scr := t.scr, sink := t.sink, phase := .done, fcFrameIndex := Config.hw.firstFrame }

/-- R290, R291, R292: MX.SPUI appends whole chunks of `interleave` bytes of each channel in turn, after the VAG header,
zero padded to `alignment`, if the format is `vagi`. Block `i` of chunk `q` of channel `k` is the 16 bytes of that
channel's block `q * bi + i`, encoded from the channel's state after its block before, with the flag byte of R290. That
the header's interleave size and channel count stand low byte first is R291's table (log 44). -/
def Obligations.SpuiStreamIsWholeChunks : Prop :=
  ∀ s : State, s.StreamReady → s.memInv → s.cfg.format.val = .spui ∨ s.cfg.format.val = .vagi →
    let ch := s.cfg.channels.val
    let bi := s.cfg.interleave.val / 16
    let total := s.pcm.length / ch
    let chunks := ((total + 27) / 28 + bi - 1) / bi
    let hlen := if s.cfg.format.val = .vagi then
      (48 + s.cfg.alignment.val - 1) / s.cfg.alignment.val * s.cfg.alignment.val else 0
    ∃ (t : State) (x : List Byte), exec .mxSpui s = .next t ∧ t.phase = .done ∧ t.fault = false ∧
      t.sink = s.sink ++ x ∧ x.length = hlen + chunks * ch * s.cfg.interleave.val ∧
      (s.cfg.format.val = .vagi →
        VagHeader x 0x69 s.cfg.interleave.val (16 * bi * chunks) s.cfg.frequency.val ch ∧
          ∀ i, 48 ≤ i → i < hlen → x.getD i 0 = 0) ∧
      (∀ q k i, q < chunks → k < ch → i < bi →
        let j := q * bi + i
        let block := s.blockOf 5 ch k j
        let last := i + 1 = bi ∧ q + 1 = chunks
        (x.drop (hlen + 16 * ((q * ch + k) * bi + i))).take 16 = spuBytes block.1 block.2 (BitVec.ofNat 8
          ((if j = 0 ∧ s.cfg.loop.val = 1 then 4 else 0) + (if last then 1 else 0) +
            (if last ∧ s.cfg.loop.val = 1 then 2 else 0)))) ∧
      t = { s with ch := t.ch, cand := t.cand, best := t.best, adHdr := t.adHdr, adMse := t.adMse, adMin := t.adMin,
                   scr := t.scr, sink := t.sink, phase := .done, fcFrameIndex := Config.hw.firstFrame }

/-- R242, R283, R285 to R288: MX.XA appends one sector of 2336 or 2352 bytes for each 4032 samples: the header for
`xacd`, the subheader twice, the terminal flags in the last sector alone, the 144 sound units with their header bytes and
lanes, zero bytes after them, and the Form2 EDC. SC_LBA_BASE is OPEN, so this holds for each `base` under which the
sectors can be stamped, of which the hardware takes one (log 16). -/
def Obligations.XaStreamIsWholeSectors : Prop :=
  ∀ (s : State) (base : Nat), s.StreamReady → s.memInv → s.tbuilt = true →
    s.cfg.format.val = .xa ∨ s.cfg.format.val = .xacd →
    let ch := s.cfg.channels.val
    let sectors := (s.pcm.length / ch + 4032 / ch - 1) / (4032 / ch)
    let size := if s.cfg.format.val = .xacd then 2352 else 2336
    (s.cfg.format.val = .xacd → ∀ n, n < sectors → n + base < 450000) →
    ∃ (t : State) (x : List Byte), mxXa (Config.withBase base) s = .next t ∧
      (base = Config.hw.lbaBase → exec .mxXa s = .next t) ∧ t.phase = .done ∧ t.fault = false ∧
      t.sink = s.sink ++ x ∧ x.length = sectors * size ∧
      (∀ n, n < sectors →
        let o := n * size + (size - 2336)
        s.subheaderAt x o (if n + 1 = sectors then 0xE5 else 0x64) s.codingByte ∧ s.xaPayloadAt x o n ∧
          edcAt x o 0x91C ∧ (s.cfg.format.val = .xacd → (x.drop (n * size)).take 16 = headerBytes (n + base))) ∧
      t = { s with ch := t.ch, cand := t.cand, best := t.best, adHdr := t.adHdr, adMse := t.adMse, adMin := t.adMin,
                   sec := t.sec, sink := t.sink, phase := .done, fcFrameIndex := Config.hw.firstFrame }

/-- R216, R293: MX.STR appends one group of 8 sectors for each whole frame in `RGBA`: the XA sector of the group in its
audio slot, and the seven chunks VD.FRAME leaves in `DMX` in the others, in order, each sector with its subheader and EDC,
and for `str2cd` with its stamp and, in the video sectors, the parity. It does so for frames that are certain to fit their
chunks (R218, under R11's bound on OUT_CAP, log 15) and each `base` under which the sectors can be stamped (log 16). That
a partial frame at the end of `RGBA` is dropped is the model's choice (log 43). -/
def Obligations.StrStreamIsGroupsOfEight : Prop :=
  ∀ (s : State) (base : Nat), s.StreamReady → s.memInv → s.tbuilt = true → s.cfg.format.val.video →
    let w := s.cfg.width.val
    let h := s.cfg.height.val
    let frames := s.rgba.size / (4 * (w * h))
    let size := if s.cfg.format.val = .str2cd then 2352 else 2336
    (∀ n, n < frames → (w / 16) * (h / 16) ≤ 13 ∨ s.frameFits n) → (∀ n, n < 8 * frames → n + base < 450000) →
    ∃ (t : State) (x : List Byte), mxStr (Config.withBase base) s = .next t ∧
      (base = Config.hw.lbaBase → exec .mxStr s = .next t) ∧ t.phase = .done ∧ t.fault = false ∧
      t.sink = s.sink ++ x ∧ x.length = frames * (8 * size) ∧
      t.fcFrameIndex = Config.hw.firstFrame + frames ∧
      (∀ g i, g < frames → i < 8 →
        let n := 8 * g + i
        let last := n + 1 = 8 * frames
        let o := n * size + (size - 2336)
        (s.cfg.format.val = .str2cd → (x.drop (n * size)).take 16 = headerBytes (n + base)) ∧
        if i = Config.hw.audioSlot then
          s.subheaderAt x o (if last then 0xE5 else 0x64) s.codingByte ∧ s.xaPayloadAt x o g ∧ edcAt x o 0x91C
        else
          let j := if i < Config.hw.audioSlot then i else i - 1
          s.subheaderAt x o (if last then 0xC9 else 0x48) 0 ∧ edcAt x o 0x808 ∧
          (∃ u, exec (.vdFrame g) { s with fcFrameIndex := Config.hw.firstFrame + g } = .next u ∧ u.fault = false ∧
            ∀ k, k < 2048 → x.getD (o + 8 + k) 0 = u.dmxByte (2048 * j + k)) ∧
          if s.cfg.format.val = .str2cd then parityAt x o else ∀ k, k < 276 → x.getD (o + 0x80C + k) 0 = 0) ∧
      t = { s with ch := t.ch, cand := t.cand, best := t.best, adHdr := t.adHdr, adMse := t.adMse, adMin := t.adMin,
                   mb := t.mb, fb := t.fb, fbc := t.fbc, bwAcc := t.bwAcc, bwLeft := t.bwLeft, out := t.out,
                   fcWords := t.fcWords, dmx := t.dmx, sec := t.sec, tsSave := t.tsSave, sink := t.sink,
                   phase := .done, fcFrameIndex := t.fcFrameIndex }

/-- R297: MX.ISO2RAW appends one 2352-byte sector for each 2048 bytes of `ISO`: the header with its stamp, the subheader
with no terminal flag, the payload copied unchanged, the Form1 EDC and the parity; a length that is not a multiple of
2048 is AddressRange before anything is emitted. SC_LBA_BASE is OPEN, so this holds for each `base` under which the
sectors can be stamped, of which the hardware takes one (log 16). -/
def Obligations.IsoImageBecomesRawSectors : Prop :=
  ∀ (s : State) (base : Nat), s.fault = false → s.phase = .init →
    (s.iso.size % 2048 ≠ 0 → exec .mxIso2raw s = .next { s with
      fault := true, fcause := .put 6, finfo := .put s.iso.size, phase := .faulted }) ∧
    (s.iso.size % 2048 = 0 → s.tbuilt = true → s.cfg.file.written = true → s.cfg.channel.written = true →
      (∀ n, n < s.iso.size / 2048 → n + base < 450000) →
      ∃ (t : State) (x : List Byte), mxIso2raw (Config.withBase base) s = .next t ∧
        (base = Config.hw.lbaBase → exec .mxIso2raw s = .next t) ∧ t.phase = .done ∧ t.fault = false ∧
        t.sink = s.sink ++ x ∧ x.length = 2352 * (s.iso.size / 2048) ∧
        (∀ n, n < s.iso.size / 2048 →
          let o := 2352 * n + 0x010
          (x.drop (2352 * n)).take 16 = headerBytes (n + base) ∧
          (x.drop (o + 2)).take 2 = [0x08, 0x00] ∧ (x.drop (o + 6)).take 2 = [0x08, 0x00] ∧
          (s.cfg.file.val ≤ 255 → s.cfg.channel.val ≤ 255 → s.subheaderAt x o 0x08 0x00) ∧
          (∀ i, i < 2048 → x.getD (o + 8 + i) 0 = s.isoByte (2048 * n + i)) ∧ edcAt x o 0x808 ∧ parityAt x o) ∧
        t = { s with sec := t.sec, tsSave := t.tsSave, sink := t.sink, phase := .done })

/-! ## Invariants and whole-machine rules -/

/-- Every buffer keeps its canonical form and its size, the channel bank and the snapshots theirs, and a written `MB`
its six blocks of 64, over every step from every state that has them (R35, R60, R70; the canonical form is the model's,
log 4 and log 7). -/
def Obligations.StepKeepsBuffersCanonical : Prop :=
  ∀ s t : State, s.memInv → s.storeInv → s.mbInv → step s = .next t → t.memInv ∧ t.storeInv ∧ t.mbInv

/-- R29, R64: over every step the accumulator's unwritten bits stay 0 and `OUT` holds whole words. -/
def Obligations.StepKeepsBitWriter : Prop :=
  ∀ s t : State, s.bwInv → s.outInv → step s = .next t → t.bwInv ∧ t.outInv

/-- R43, R281, R321: over every step `FAULT` and FAULTED go together, the fault registers are then written with a cause
of the eleven, and the host sees only INIT, DONE or FAULTED. -/
def Obligations.StepKeepsFaultAndPhase : Prop :=
  ∀ s t : State, s.faultInv → s.phaseInv → step s = .next t → t.faultInv ∧ t.phaseInv

/-- R24, R33: over every step the quantisation error of every channel stays 0 and `FC.qscale` stays 1. -/
def Obligations.StepKeepsQuantErrorZero : Prop :=
  ∀ s t : State, s.qerrInv → s.fcQscale = 1 → step s = .next t → t.qerrInv ∧ t.fcQscale = 1

/-- The invariants hold after reset (R46). -/
def Obligations.ResetMeetsTheInvariants : Prop :=
  State.reset.memInv ∧ State.reset.storeInv ∧ State.reset.mbInv ∧ State.reset.bwInv ∧ State.reset.outInv ∧
    State.reset.faultInv ∧ State.reset.phaseInv ∧ State.reset.qerrInv ∧ State.reset.fcQscale = 1

/-- R60, R328: no step takes a byte away from `SINK`, and no step changes a host buffer except the host's own write to
it, or AD.ENCODE's to `DATA`; `CFG` is read-only to every command but a reset (R40). -/
def Obligations.CommandsLeaveHostBuffers : Prop :=
  (∀ s t : State, step s = .next t → s.sink <+: t.sink) ∧
  ∀ (i : Instr) (s t : State), exec i s = .next t →
    t.pcm = s.pcm ∧ t.rgba = s.rgba ∧ t.iso = s.iso ∧ t.moves = s.moves ∧
      (i ≠ .sysReset → t.cfg = s.cfg) ∧
      ((∀ c base stride fc dbase ds dp, i ≠ .adEncode c base stride fc dbase ds dp) → t.data = s.data)

/-- R42, R281: a unit command or SYS.VALIDATE that takes no fault leaves `PHASE` alone, and an MX command that takes
none leaves DONE. -/
def Obligations.OnlyMxCommandsMovePhase : Prop :=
  ∀ (i : Instr) (s t : State), i ≠ .sysReset → exec i s = .next t → t.fault = false →
    t.phase = if i.mx = true then .done else s.phase
end

