-- ==== Sys2Proof/Laws/Store.lean ====
section
/-! SUPPORT. The laws of sparse arrays and byte buffers: reading after writing, and every operation keeps the canonical
form. -/

namespace Sys2Proof.Machine

section
variable {α : Type}

@[simp] theorem Store.lookup_nil (i : Nat) : Store.lookup ([] : Store α) i = none := rfl

theorem Store.lookup_cons (k : Nat) (v : α) (st : Store α) (i : Nat) :
    Store.lookup ((k, v) :: st) i = if k = i then some v else Store.lookup st i := rfl

theorem Store.lookup_append (a b : Store α) (i : Nat) :
    Store.lookup (a ++ b) i = (Store.lookup a i).or (Store.lookup b i) := by
  induction a with
  | nil => simp
  | cons p a ih =>
    obtain ⟨k, v⟩ := p
    simp only [List.cons_append, Store.lookup_cons, ih]
    split <;> simp

/-- A kept index reads as before; a dropped one reads nothing. -/
theorem Store.lookup_filter (f : Nat → Bool) (st : Store α) (i : Nat) :
    Store.lookup (st.filter fun p => f p.1) i = if f i then Store.lookup st i else none := by
  induction st with
  | nil => simp
  | cons p st ih =>
    obtain ⟨k, v⟩ := p
    by_cases hk : f k
    · simp only [List.filter_cons, hk, if_true, Store.lookup_cons, ih]
      by_cases h : k = i
      · subst h; simp [hk]
      · simp [h]
    · have hk' : f k = false := by simpa using hk
      rw [List.filter_cons_of_neg (by simp [hk']), ih, Store.lookup_cons]
      by_cases h : k = i
      · subst h; simp [hk']
      · simp [h]

theorem Store.lookup_indexed (vs : List α) (k i : Nat) :
    Store.lookup (Store.indexed k vs) i = if k ≤ i then vs[i - k]? else none := by
  induction vs generalizing k with
  | nil => simp [Store.indexed]
  | cons v vs ih =>
    simp only [Store.indexed, Store.lookup_cons, ih]
    by_cases h : k = i
    · subst h; simp
    · by_cases hki : k ≤ i
      · have h1 : k + 1 ≤ i := by omega
        have h2 : i - k = (i - (k + 1)) + 1 := by omega
        simp [h, hki, h1, h2]
      · have h1 : ¬ k + 1 ≤ i := by omega
        simp [h, hki, h1]

/-- Reading after a write of consecutive values: the value written inside the run, the old one outside it. -/
theorem Store.lookup_putList (st : Store α) (k : Nat) (vs : List α) (i : Nat) :
    Store.lookup (Store.putList st k vs) i =
      if k ≤ i ∧ i < k + vs.length then vs[i - k]? else Store.lookup st i := by
  unfold Store.putList
  rw [Store.lookup_append, Store.lookup_append, Store.lookup_indexed,
    Store.lookup_filter (fun n => decide (n < k)), Store.lookup_filter (fun n => decide (k + vs.length ≤ n))]
  by_cases h1 : i < k
  · have h2 : ¬ k ≤ i := by omega
    have h3 : ¬ k + vs.length ≤ i := by omega
    simp [h1, h2, h3]
  · by_cases h2 : i < k + vs.length
    · have h3 : k ≤ i := by omega
      have h4 : ¬ k + vs.length ≤ i := by omega
      simp [h1, h2, h3, h4]
    · have h3 : k ≤ i := by omega
      have h4 : k + vs.length ≤ i := by omega
      have h5 : vs.length ≤ i - k := by omega
      simp [h1, h2, h3, h4, List.getElem?_eq_none h5]

theorem Store.lookup_put_self (st : Store α) (k : Nat) (v : α) : Store.lookup (Store.put st k v) k = some v := by
  simp [Store.put, Store.lookup_putList]

theorem Store.lookup_put_other (st : Store α) (k : Nat) (v : α) (i : Nat) (h : i ≠ k) :
    Store.lookup (Store.put st k v) i = Store.lookup st i := by
  rw [Store.put, Store.lookup_putList, if_neg]
  simp only [List.length_singleton]; omega

theorem Store.lookup_erase (st : Store α) (k i : Nat) :
    Store.lookup (Store.erase st k) i = if i = k then none else Store.lookup st i := by
  unfold Store.erase
  rw [Store.lookup_filter (fun n => decide (n ≠ k))]
  by_cases h : i = k <;> simp [h]

theorem Store.mem_indexed {k : Nat} {vs : List α} {p : Nat × α} (h : p ∈ Store.indexed k vs) :
    k ≤ p.1 ∧ p.1 < k + vs.length := by
  induction vs generalizing k with
  | nil => simp [Store.indexed] at h
  | cons v vs ih =>
    simp only [Store.indexed, List.mem_cons] at h
    rcases h with rfl | h
    · simp
    · have := ih h; simp only [List.length_cons]; omega

theorem Store.wf_indexed (k : Nat) (vs : List α) : Store.wf (Store.indexed k vs) := by
  induction vs generalizing k with
  | nil => simp [Store.indexed]
  | cons v vs ih =>
    simp only [Store.indexed, Store.wf, List.pairwise_cons]
    exact ⟨fun p hp => by have := (Store.mem_indexed hp).1; omega, ih _⟩

theorem Store.wf_putList {st : Store α} (h : Store.wf st) (k : Nat) (vs : List α) :
    Store.wf (Store.putList st k vs) := by
  unfold Store.putList Store.wf
  rw [List.pairwise_append, List.pairwise_append]
  refine ⟨⟨List.Pairwise.filter _ h, Store.wf_indexed k vs, ?_⟩, List.Pairwise.filter _ h, ?_⟩
  · intro p hp q hq
    have h1 := (Store.mem_indexed hq).1
    simp only [List.mem_filter, decide_eq_true_eq] at hp
    omega
  · intro p hp q hq
    simp only [List.mem_filter, decide_eq_true_eq] at hq
    rw [List.mem_append] at hp
    rcases hp with hp | hp
    · simp only [List.mem_filter, decide_eq_true_eq] at hp; omega
    · have := (Store.mem_indexed hp).2; omega

theorem Store.wf_put {st : Store α} (h : Store.wf st) (k : Nat) (v : α) : Store.wf (Store.put st k v) :=
  Store.wf_putList h k [v]

theorem Store.wf_erase {st : Store α} (h : Store.wf st) (k : Nat) : Store.wf (Store.erase st k) :=
  List.Pairwise.filter _ h

/-- An entry after a write is a new one or an old one outside the run. -/
theorem Store.mem_putList {st : Store α} {k : Nat} {vs : List α} {p : Nat × α} (h : p ∈ Store.putList st k vs) :
    p ∈ st ∨ p ∈ Store.indexed k vs := by
  unfold Store.putList at h
  simp only [List.mem_append, List.mem_filter] at h
  tauto

end

/-! ## Byte buffers -/

@[simp] theorem Memory.writeList_size (m : Memory) (a : Nat) (bs : List Byte) : (m.writeList a bs).size = m.size := rfl

@[simp] theorem Memory.write_size (m : Memory) (a : Nat) (b : Byte) : (m.write a b).size = m.size := rfl

@[simp] theorem Memory.writeZ_size (m : Memory) (a : Nat) (b : Byte) : (m.writeZ a b).size = m.size := by
  unfold Memory.writeZ; split <;> rfl

/-- Reading after writing consecutive bytes. -/
theorem Memory.read_writeList (m : Memory) (a : Nat) (bs : List Byte) (i : Nat) :
    (m.writeList a bs).read? i = if a ≤ i ∧ i < a + bs.length then bs[i - a]? else m.read? i :=
  Store.lookup_putList m.cells a bs i

theorem Memory.read_write (m : Memory) (a : Nat) (b : Byte) (i : Nat) :
    (m.write a b).read? i = if i = a then some b else m.read? i := by
  unfold Memory.write
  rw [Memory.read_writeList]
  by_cases h : i = a
  · subst h; simp
  · rw [if_neg h, if_neg]
    simp only [List.length_singleton]; omega

/-- Reading after a write to a buffer whose unlisted addresses read 0. -/
theorem Memory.read_writeZ (m : Memory) (a : Nat) (b : Byte) (i : Nat) :
    ((m.writeZ a b).read? i).getD 0 = if i = a then b else (m.read? i).getD 0 := by
  unfold Memory.writeZ
  split
  · rename_i h
    unfold Memory.read?
    rw [Store.lookup_erase]
    by_cases hi : i = a <;> simp [hi, h]
  · rw [Memory.read_write]
    by_cases hi : i = a <;> simp [hi]

theorem Memory.wf_writeList {m : Memory} (h : m.wf) {a : Nat} {bs : List Byte} (hb : a + bs.length ≤ m.size) :
    (m.writeList a bs).wf := by
  refine ⟨Store.wf_putList h.1 a bs, fun p hp => ?_⟩
  rcases Store.mem_putList hp with hp | hp
  · exact h.2 p hp
  · have := (Store.mem_indexed hp).2
    show p.1 < m.size
    omega

theorem Memory.wf_write {m : Memory} (h : m.wf) {a : Nat} {b : Byte} (hb : a < m.size) : (m.write a b).wf :=
  Memory.wf_writeList h (by simpa using hb)

theorem Memory.wfZ_writeZ {m : Memory} (h : m.wfZ) {a : Nat} {b : Byte} (hb : a < m.size) : (m.writeZ a b).wfZ := by
  unfold Memory.writeZ
  split
  · refine ⟨⟨Store.wf_erase h.1.1 a, fun p hp => h.1.2 p (List.mem_filter.1 hp).1⟩, fun p hp => ?_⟩
    exact h.2 p (List.mem_filter.1 hp).1
  · rename_i hb0
    refine ⟨Memory.wf_write h.1 hb, fun p hp => ?_⟩
    rcases Store.mem_putList hp with hp | hp
    · exact h.2 p hp
    · simp only [Store.indexed, List.mem_singleton] at hp
      subst hp; exact hb0

theorem Memory.wf_filled (bs : List Byte) : (Memory.filled bs).wf :=
  ⟨Store.wf_indexed 0 bs, fun p hp => by have := (Store.mem_indexed hp).2; simpa [Memory.filled] using this⟩

theorem Memory.wfZ_filledZ (bs : List Byte) : (Memory.filledZ bs).wfZ := by
  refine ⟨⟨List.Pairwise.filter _ (Store.wf_indexed 0 bs), fun p hp => ?_⟩, fun p hp => ?_⟩
  · have := (Store.mem_indexed (List.mem_filter.1 hp).1).2
    simpa [Memory.filledZ] using this
  · simpa using (List.mem_filter.1 hp).2

/-- Every buffer has its canonical form after reset. -/
theorem State.reset_memory_wf :
    State.reset.sec.wf ∧ State.reset.scr.wf ∧ State.reset.dmx.wf ∧ State.reset.rgba.wf ∧ State.reset.iso.wf ∧
      State.reset.data.wfZ := by
  simp [State.reset, State.resetOf, Memory.wfZ, Memory.wf, Store.wf]

end Sys2Proof.Machine
end

