-- ==== Sys2Proof/Laws/Ops.lean ====
section
/-! SUPPORT. What each shared operation can do, said once: sequencing, refusing, taking a fault, reading marked
registers, reading bytes after a write. -/

namespace Sys2Proof.Machine

/-! ## Sequencing -/

@[simp] theorem andThen_fault (e : Fault) (f : State → Result) : andThen (.fault e) f = .fault e := rfl
@[simp] theorem andThen_refused (e : Refusal) (f : State → Result) : andThen (.refused e) f = .refused e := rfl

theorem andThen_next (s : State) (f : State → Result) : andThen (.next s) f = if s.fault then .next s else f s := rfl

@[simp] theorem andThen_next_ok {s : State} (h : s.fault = false) (f : State → Result) :
    andThen (.next s) f = f s := by simp [andThen_next, h]

@[simp] theorem andThen_next_faulted {s : State} (h : s.fault = true) (f : State → Result) :
    andThen (.next s) f = .next s := by simp [andThen_next, h]

/-- If a sequence answers a next state, then its first part ran clean and the rest answered it, or its first part
faulted and the sequence ended there. -/
theorem andThen_eq_next {r : Result} {f : State → Result} {t : State} (h : andThen r f = .next t) :
    (∃ s, r = .next s ∧ s.fault = false ∧ f s = .next t) ∨ (r = .next t ∧ t.fault = true) := by
  cases r with
  | next s =>
    by_cases hs : s.fault
    · rw [andThen_next_faulted hs] at h; injection h with h; subst h; exact .inr ⟨rfl, hs⟩
    · have hs : s.fault = false := by simpa using hs
      rw [andThen_next_ok hs] at h; exact .inl ⟨s, rfl, hs, h⟩
  | fault e => cases h
  | refused e => cases h

@[simp] theorem forEach_nil {α : Type} (f : α → State → Result) (s : State) : forEach [] f s = .next s := rfl

@[simp] theorem forEach_cons {α : Type} (x : α) (xs : List α) (f : α → State → Result) (s : State) :
    forEach (x :: xs) f s = andThen (f x s) (forEach xs f) := rfl

/-- An operation keeps a property: whenever it answers a next state, the property carries over. -/
def Keeps (P : State → Prop) (f : State → Result) : Prop := ∀ s t, P s → f s = .next t → P t

theorem Keeps.andThen {P : State → Prop} {f g : State → Result} (hf : Keeps P f) (hg : Keeps P g) :
    Keeps P fun s => Machine.andThen (f s) g := by
  intro s t hs h
  rcases andThen_eq_next h with ⟨u, hu, -, ht⟩ | ⟨hu, -⟩
  · exact hg u t (hf s u hs hu) ht
  · exact hf s t hs hu

theorem Keeps.forEach {α : Type} {P : State → Prop} {f : α → State → Result} (xs : List α)
    (hf : ∀ x ∈ xs, Keeps P (f x)) : Keeps P (Machine.forEach xs f) := by
  induction xs with
  | nil => intro s t hs h; rw [forEach_nil] at h; injection h with h; exact h ▸ hs
  | cons x xs ih =>
    exact Keeps.andThen (hf x (by simp)) (ih fun y hy => hf y (by simp [hy]))

/-- A loop whose every pass runs clean runs clean, and an indexed property carries through it. -/
theorem forEach_range_runs {P : Nat → State → Prop} {f : Nat → State → Result} (n : Nat)
    (hf : ∀ i s, i < n → P i s → ∃ t, f i s = .next t ∧ t.fault = false ∧ P (i + 1) t) (s : State) (h0 : s.fault = false)
    (hs : P 0 s) : ∃ t, forEach (List.range n) f s = .next t ∧ t.fault = false ∧ P n t := by
  suffices key : ∀ m k s, k + m = n → s.fault = false → P k s →
      ∃ t, forEach (List.range' k m) f s = .next t ∧ t.fault = false ∧ P n t by
    have := key n 0 s (by omega) h0 hs
    rwa [← List.range_eq_range'] at this
  intro m
  induction m with
  | zero => intro k s hk h0 hs; exact ⟨s, by simp, h0, by simpa [← hk] using hs⟩
  | succ m ih =>
    intro k s hk h0 hs
    obtain ⟨u, hu, hu0, hu1⟩ := hf k s (by omega) hs
    obtain ⟨t, ht, ht0, ht1⟩ := ih (k + 1) u (by omega) hu0 hu1
    exact ⟨t, by simp only [List.range'_succ, forEach_cons, hu, andThen_next_ok hu0, ht], ht0, ht1⟩

/-! ## Refusing and faulting -/

@[simp] theorem unlessFaulted_ok {s : State} (h : s.fault = false) (r : Result) : unlessFaulted s r = r := by
  simp [unlessFaulted, h]

@[simp] theorem unlessFaulted_faulted {s : State} (h : s.fault = true) (r : Result) : unlessFaulted s r = .next s := by
  simp [unlessFaulted, h]

/-- A guarded command that answers a next state left a faulted block alone, or ran. -/
theorem unlessFaulted_eq_next {s : State} {r : Result} {t : State} (h : unlessFaulted s r = .next t) :
    (s.fault = true ∧ t = s) ∨ (s.fault = false ∧ r = .next t) := by
  by_cases hs : s.fault
  · rw [unlessFaulted_faulted hs] at h; injection h with h; exact .inl ⟨hs, h.symm⟩
  · have hs : s.fault = false := by simpa using hs
    rw [unlessFaulted_ok hs] at h; exact .inr ⟨hs, h⟩

theorem raise_eq_next {cause : Cause} {info : Nat} {s t : State} (h : raise cause info s = .next t) :
    t = s.fail cause info := by injection h with h; exact h.symm

@[simp] theorem need_written {α : Type} {m : Marked α} {item : Item} {k : α → Result} (h : m.written = true) :
    need m item k = k m.val := by simp [need, h]

/-- A command that reads a register and answers a next state found it written. -/
theorem need_eq_next {α : Type} {m : Marked α} {item : Item} {k : α → Result} {t : State}
    (h : need m item k = .next t) : m.written = true ∧ k m.val = .next t := by
  unfold need at h
  split at h
  · exact ⟨‹_›, h⟩
  · cases h

theorem needSec_eq_next {s : State} {r : Result} {t : State} (h : needSec s r = .next t) :
    s.sec.cells ≠ [] ∧ r = .next t := by
  unfold needSec at h
  split at h
  · cases h
  · rename_i hs; exact ⟨by simpa using hs, h⟩

theorem needSec_written {s : State} {r : Result} (h : s.sec.cells ≠ []) : needSec s r = r := by
  simp [needSec, List.isEmpty_iff, h]

/-! ## Bytes after a write -/

/-- A byte of `SEC` after a write to it. -/
theorem State.secByte_putSec (s : State) (a : Nat) (bs : List Byte) (i : Nat) :
    (s.putSec a bs).secByte i = if a ≤ i ∧ i < a + bs.length then bs.getD (i - a) 0 else s.secByte i := by
  show ((s.sec.writeList a bs).read? i).getD _ = _
  rw [Memory.read_writeList]
  split
  · rename_i h
    have : i - a < bs.length := by omega
    simp [List.getElem?_eq_getElem this]
  · rfl

theorem State.putSec_written (s : State) (a : Nat) (bs : List Byte) (h : bs ≠ []) :
    (s.putSec a bs).sec.cells ≠ [] := by
  cases bs with
  | nil => exact absurd rfl h
  | cons b bs => simp [State.putSec, Memory.writeList, Store.putList, Store.indexed]

@[simp] theorem bytesOf_length (read : Nat → Byte) (a n : Nat) : (bytesOf read a n).length = n := by
  simp [bytesOf]

/-- A channel after a write to one. -/
theorem State.channel_putChannel (s : State) (c : Nat) (v : Channel) (d : Nat) :
    (s.putChannel c v).channel d = if d = c then v else s.channel d := by
  show (Store.lookup (if v = Channel.zero then Store.erase s.ch c else Store.put s.ch c v) d).getD _ = _
  split
  · rename_i h
    rw [Store.lookup_erase]
    by_cases hd : d = c <;> simp [hd, h, State.channel]
  · by_cases hd : d = c
    · subst hd; simp [Store.lookup_put_self]
    · simp [Store.lookup_put_other _ _ _ _ hd, hd, State.channel]

/-- A byte of the buffer AD.ENCODE writes to, after a write to it. -/
theorem State.targetByte_putTarget (s : State) (t : Target) (a : Nat) (b : Byte) (i : Nat) :
    (s.putTarget t a b).targetByte t i = if i = a then b else s.targetByte t i := by
  cases t
  · exact Memory.read_writeZ s.data a b i
  · show ((s.sec.write a b).read? i).getD _ = _
    rw [Memory.read_write]; split <;> rfl
  · show ((s.scr.write a b).read? i).getD _ = _
    rw [Memory.read_write]; split <;> rfl

@[simp] theorem State.putTarget_fault (s : State) (t : Target) (a : Nat) (b : Byte) :
    (s.putTarget t a b).fault = s.fault := by cases t <;> rfl

@[simp] theorem leField_length (width value : Nat) : (leField width value).length = width := by simp [leField]

@[simp] theorem beField_length (width value : Nat) : (beField width value).length = width := by simp [beField]

end Sys2Proof.Machine
end

