-- ==== Sys2Proof/Laws/Params.lean ====
section
/-! SUPPORT. What is known of the parameters of `Config.hw`: the value of each that is not OPEN, and the constraints of
R11, R196 and R207 on those that are. -/

namespace Sys2Proof.Machine

/-! ## The values of R11 -/

@[simp] theorem hw_nsamp : Config.hw.nsamp = 28 := rfl
@[simp] theorem hw_shiftMax : Config.hw.shiftMax = 12 := rfl
@[simp] theorem hw_nfilt : Config.hw.nfilt = 5 := rfl
@[simp] theorem hw_fcSpu : Config.hw.fcSpu = 5 := rfl
@[simp] theorem hw_fcXa : Config.hw.fcXa = 4 := rfl
@[simp] theorem hw_k1 : Config.hw.k1 = Config.tableK1 := rfl
@[simp] theorem hw_k2 : Config.hw.k2 = Config.tableK2 := rfl
@[simp] theorem hw_predShift : Config.hw.predShift = 6 := rfl
@[simp] theorem hw_qerrEnable : Config.hw.qerrEnable = false := rfl
@[simp] theorem hw_accBits : Config.hw.accBits = 16 := rfl
@[simp] theorem hw_bwNmax : Config.hw.bwNmax = 16 := rfl
@[simp] theorem hw_lumaBias : Config.hw.lumaBias = 0x200 := rfl
@[simp] theorem hw_scale : Config.hw.scale = Config.tableScale := rfl
@[simp] theorem hw_frac : Config.hw.frac = 14 := rfl
@[simp] theorem hw_quant : Config.hw.quant = Config.tableQuant := rfl
@[simp] theorem hw_coefMin : Config.hw.coefMin = -512 := rfl
@[simp] theorem hw_coefMax : Config.hw.coefMax = 511 := rfl
@[simp] theorem hw_budget : Config.hw.budget = 6500 := rfl
@[simp] theorem hw_zagzig : Config.hw.zagzig = Config.tableZagzig := rfl
@[simp] theorem hw_zigzag : Config.hw.zigzag = Config.tableZigzag := rfl
@[simp] theorem hw_esc : Config.hw.esc = 0b000001 := rfl
@[simp] theorem hw_eob : Config.hw.eob = 0b10 := rfl
@[simp] theorem hw_sentinel : Config.hw.sentinel = 0x1FF := rfl
@[simp] theorem hw_qscale : Config.hw.qscale = 1 := rfl
@[simp] theorem hw_nchunk : Config.hw.nchunk = 7 := rfl
@[simp] theorem hw_chunkBytes : Config.hw.chunkBytes = 2016 := rfl
@[simp] theorem hw_hdrBytes : Config.hw.hdrBytes = 32 := rfl
@[simp] theorem hw_hdrLayout : Config.hw.hdrLayout = .suggested := rfl
@[simp] theorem hw_sectorBytes : Config.hw.sectorBytes = 2352 := rfl
@[simp] theorem hw_sync : Config.hw.sync = Config.tableSync := rfl
@[simp] theorem hw_mode : Config.hw.mode = 0x02 := rfl
@[simp] theorem hw_submodeBits : Config.hw.submodeBits = Config.tableSubmodeBits := rfl
@[simp] theorem hw_codingBits : Config.hw.codingBits = Config.tableCodingBits := rfl
@[simp] theorem hw_smAudio : Config.hw.smAudio = 0x64 := rfl
@[simp] theorem hw_smVideo : Config.hw.smVideo = 0x48 := rfl
@[simp] theorem hw_smData : Config.hw.smData = 0x08 := rfl
@[simp] theorem hw_smEnd : Config.hw.smEnd = 0x81 := rfl
@[simp] theorem hw_edcPoly : Config.hw.edcPoly = 0xD8018001 := rfl
@[simp] theorem hw_edcReflected : Config.hw.edcReflected = true := rfl
@[simp] theorem hw_edcInit : Config.hw.edcInit = 0 := rfl
@[simp] theorem hw_edcXorOut : Config.hw.edcXorOut = 0 := rfl
@[simp] theorem hw_gfPoly : Config.hw.gfPoly = 0x11D := rfl
@[simp] theorem hw_gfGen : Config.hw.gfGen = 0x02 := rfl
@[simp] theorem hw_pqZeroMode : Config.hw.pqZeroMode = true := rfl
@[simp] theorem hw_stGroup : Config.hw.stGroup = 8 := rfl
@[simp] theorem hw_xaFreqs : Config.hw.xaFreqs = [37800, 18900] := rfl
@[simp] theorem hw_xaCadence : Config.hw.xaCadence = 18 := rfl

/-! ## Another SC_LBA_BASE changes no other parameter (log 16) -/

section
variable (base : Nat)

@[simp] theorem withBase_lbaBase : (Config.withBase base).lbaBase = base := rfl
@[simp] theorem withBase_nsamp : (Config.withBase base).nsamp = Config.hw.nsamp := rfl
@[simp] theorem withBase_shiftMax : (Config.withBase base).shiftMax = Config.hw.shiftMax := rfl
@[simp] theorem withBase_nfilt : (Config.withBase base).nfilt = Config.hw.nfilt := rfl
@[simp] theorem withBase_fcSpu : (Config.withBase base).fcSpu = Config.hw.fcSpu := rfl
@[simp] theorem withBase_fcXa : (Config.withBase base).fcXa = Config.hw.fcXa := rfl
@[simp] theorem withBase_k1 : (Config.withBase base).k1 = Config.hw.k1 := rfl
@[simp] theorem withBase_k2 : (Config.withBase base).k2 = Config.hw.k2 := rfl
@[simp] theorem withBase_predShift : (Config.withBase base).predShift = Config.hw.predShift := rfl
@[simp] theorem withBase_qerrEnable : (Config.withBase base).qerrEnable = Config.hw.qerrEnable := rfl
@[simp] theorem withBase_accBits : (Config.withBase base).accBits = Config.hw.accBits := rfl
@[simp] theorem withBase_bwNmax : (Config.withBase base).bwNmax = Config.hw.bwNmax := rfl
@[simp] theorem withBase_outCap : (Config.withBase base).outCap = Config.hw.outCap := rfl
@[simp] theorem withBase_cscY : (Config.withBase base).cscY = Config.hw.cscY := rfl
@[simp] theorem withBase_cscCr : (Config.withBase base).cscCr = Config.hw.cscCr := rfl
@[simp] theorem withBase_cscCb : (Config.withBase base).cscCb = Config.hw.cscCb := rfl
@[simp] theorem withBase_lumaBias : (Config.withBase base).lumaBias = Config.hw.lumaBias := rfl
@[simp] theorem withBase_scale : (Config.withBase base).scale = Config.hw.scale := rfl
@[simp] theorem withBase_frac : (Config.withBase base).frac = Config.hw.frac := rfl
@[simp] theorem withBase_dcDiv : (Config.withBase base).dcDiv = Config.hw.dcDiv := rfl
@[simp] theorem withBase_allDiv : (Config.withBase base).allDiv = Config.hw.allDiv := rfl
@[simp] theorem withBase_quant : (Config.withBase base).quant = Config.hw.quant := rfl
@[simp] theorem withBase_zthresh : (Config.withBase base).zthresh = Config.hw.zthresh := rfl
@[simp] theorem withBase_coefMin : (Config.withBase base).coefMin = Config.hw.coefMin := rfl
@[simp] theorem withBase_coefMax : (Config.withBase base).coefMax = Config.hw.coefMax := rfl
@[simp] theorem withBase_budget : (Config.withBase base).budget = Config.hw.budget := rfl
@[simp] theorem withBase_cutLuma : (Config.withBase base).cutLuma = Config.hw.cutLuma := rfl
@[simp] theorem withBase_cutChroma : (Config.withBase base).cutChroma = Config.hw.cutChroma := rfl
@[simp] theorem withBase_cutLast : (Config.withBase base).cutLast = Config.hw.cutLast := rfl
@[simp] theorem withBase_zagzig : (Config.withBase base).zagzig = Config.hw.zagzig := rfl
@[simp] theorem withBase_zigzag : (Config.withBase base).zigzag = Config.hw.zigzag := rfl
@[simp] theorem withBase_esc : (Config.withBase base).esc = Config.hw.esc := rfl
@[simp] theorem withBase_eob : (Config.withBase base).eob = Config.hw.eob := rfl
@[simp] theorem withBase_sentinel : (Config.withBase base).sentinel = Config.hw.sentinel := rfl
@[simp] theorem withBase_qscale : (Config.withBase base).qscale = Config.hw.qscale := rfl
@[simp] theorem withBase_nchunk : (Config.withBase base).nchunk = Config.hw.nchunk := rfl
@[simp] theorem withBase_chunkBytes : (Config.withBase base).chunkBytes = Config.hw.chunkBytes := rfl
@[simp] theorem withBase_hdrBytes : (Config.withBase base).hdrBytes = Config.hw.hdrBytes := rfl
@[simp] theorem withBase_hdrLayout : (Config.withBase base).hdrLayout = Config.hw.hdrLayout := rfl
@[simp] theorem withBase_mbOrder : (Config.withBase base).mbOrder = Config.hw.mbOrder := rfl
@[simp] theorem withBase_sectorBytes : (Config.withBase base).sectorBytes = Config.hw.sectorBytes := rfl
@[simp] theorem withBase_sync : (Config.withBase base).sync = Config.hw.sync := rfl
@[simp] theorem withBase_mode : (Config.withBase base).mode = Config.hw.mode := rfl
@[simp] theorem withBase_submodeBits : (Config.withBase base).submodeBits = Config.hw.submodeBits := rfl
@[simp] theorem withBase_codingBits : (Config.withBase base).codingBits = Config.hw.codingBits := rfl
@[simp] theorem withBase_smAudio : (Config.withBase base).smAudio = Config.hw.smAudio := rfl
@[simp] theorem withBase_smVideo : (Config.withBase base).smVideo = Config.hw.smVideo := rfl
@[simp] theorem withBase_smData : (Config.withBase base).smData = Config.hw.smData := rfl
@[simp] theorem withBase_smEnd : (Config.withBase base).smEnd = Config.hw.smEnd := rfl
@[simp] theorem withBase_edcPoly : (Config.withBase base).edcPoly = Config.hw.edcPoly := rfl
@[simp] theorem withBase_edcReflected : (Config.withBase base).edcReflected = Config.hw.edcReflected := rfl
@[simp] theorem withBase_edcInit : (Config.withBase base).edcInit = Config.hw.edcInit := rfl
@[simp] theorem withBase_edcXorOut : (Config.withBase base).edcXorOut = Config.hw.edcXorOut := rfl
@[simp] theorem withBase_gfPoly : (Config.withBase base).gfPoly = Config.hw.gfPoly := rfl
@[simp] theorem withBase_gfGen : (Config.withBase base).gfGen = Config.hw.gfGen := rfl
@[simp] theorem withBase_pqZeroMode : (Config.withBase base).pqZeroMode = Config.hw.pqZeroMode := rfl
@[simp] theorem withBase_stGroup : (Config.withBase base).stGroup = Config.hw.stGroup := rfl
@[simp] theorem withBase_audioSlot : (Config.withBase base).audioSlot = Config.hw.audioSlot := rfl
@[simp] theorem withBase_firstFrame : (Config.withBase base).firstFrame = Config.hw.firstFrame := rfl
@[simp] theorem withBase_vagName : (Config.withBase base).vagName = Config.hw.vagName := rfl
@[simp] theorem withBase_xaFreqs : (Config.withBase base).xaFreqs = Config.hw.xaFreqs := rfl
@[simp] theorem withBase_xaCadence : (Config.withBase base).xaCadence = Config.hw.xaCadence := rfl

end

/-- With the hardware's own offset it is the configuration of the hardware. -/
theorem withBase_hw : Config.withBase Config.hw.lbaBase = Config.hw := rfl

/-- The sizes of R11 that the laws of the commands rest on. -/
structure Sizes (c : Config) : Prop where
  nsamp : c.nsamp = 28
  nfilt : c.nfilt = 5
  shiftMax : c.shiftMax = 12
  accBits : c.accBits = 16
  bwNmax : c.bwNmax = 16
  nchunk : c.nchunk = 7
  chunkBytes : c.chunkBytes = 2016
  hdrBytes : c.hdrBytes = 32
  sectorBytes : c.sectorBytes = 2352
  sync : c.sync.length = 12
  xaCadence : c.xaCadence = 18

theorem withBase_sizes (base : Nat) : Sizes (Config.withBase base) :=
  ⟨rfl, rfl, rfl, rfl, rfl, rfl, rfl, rfl, rfl, rfl, rfl⟩

theorem hw_sizes : Sizes Config.hw := withBase_sizes _

/-- The two scan tables are inverse permutations (R44, R209). -/
theorem hw_scan_inverse : ∀ k, k < 64 → Config.hw.zigzag.getD (Config.hw.zagzig.getD k 0) 0 = k ∧
    Config.hw.zagzig.getD (Config.hw.zigzag.getD k 0) 0 = k := by decide

/-- The submode bytes of R242 set the flags R108 names: audio is real-time, Form2 and audio; video real-time and data;
data is data; the end of a stream adds end of file and end of record. -/
theorem hw_submode_bits : let b := Config.hw.submodeBits
    Config.hw.smAudio = 2 ^ b.realTime + 2 ^ b.form2 + 2 ^ b.audio ∧ Config.hw.smVideo = 2 ^ b.realTime + 2 ^ b.data ∧
      Config.hw.smData = 2 ^ b.data ∧ Config.hw.smEnd = 2 ^ b.endOfFile + 2 ^ b.endOfRecord := by decide

/-- The generator walk of this hardware doubles (R250). -/
theorem gfNext_hw (x : Nat) : gfNext Config.hw x = gfDouble Config.hw x := by
  have z : gfDouble Config.hw 0 = 0 := rfl
  have b : ∀ i, (2 : Nat).testBit i = decide (i = 1) := fun i => by
    simpa [eq_comm] using Nat.testBit_two_pow (n := 1) (m := i)
  simp [gfNext, List.range_succ, b, z]

/-- No error is carried on this hardware (R160). -/
@[simp] theorem carriedError_hw (qerr : BitVec 32) (i : Nat) : carriedError Config.hw qerr i = qerr := rfl

/-! ## The OPEN parameters -/

/-- OUT_CAP leaves room up to 7 x 2016 bytes (R11). -/
theorem State.room_of_le {s : State} {n : Nat} (h : s.out.length + n ≤ 14112) : s.room n := by
  intro cap hc
  simp only [Config.hw, Config.openOutCap] at hc
  rcases Option.map_eq_some_iff.mp hc with ⟨a, -, rfl⟩
  omega

/-- The audio slot is one of the eight (R11). -/
theorem hw_audioSlot_lt : Config.hw.audioSlot < 8 := Nat.mod_lt _ (by decide)

/-- The first frame number has 32 bits (R34). -/
theorem hw_firstFrame_lt : Config.hw.firstFrame < 2 ^ 32 := Config.rawFirstFrame.isLt

/-- The divisors are not 0 (R200). -/
theorem hw_divisors_pos : 0 < Config.hw.dcDiv ∧ 0 < Config.hw.allDiv := ⟨Nat.succ_pos _, Nat.succ_pos _⟩

/-- The colour functions are 0 at black (R196 (a)). -/
theorem hw_csc_black : Config.hw.cscY 0 0 0 = 0 ∧ Config.hw.cscCr 0 0 0 = 0 ∧ Config.hw.cscCb 0 0 0 = 0 := by
  simp [Config.hw, Config.openCscY, Config.openCscCr, Config.openCscCb]

/-- A schedule never falls (R207 (b)). -/
theorem openCut_mono (raw : Nat → Nat) (last t : Nat) :
    Config.openCut raw last t ≤ Config.openCut raw last (t + 1) := by
  simp only [Config.openCut]
  split <;> omega

/-- Iteration 0 cuts nothing (R207 (a)). -/
theorem openCut_zero (raw : Nat → Nat) (last : Nat) : Config.openCut raw last 0 ≤ 1 := Nat.min_le_right _ _

/-- From iteration `last` on everything is cut (R207 (c)). -/
theorem openCut_last (raw : Nat → Nat) {last t : Nat} (h0 : 0 < last) (h : last ≤ t) :
    513 ≤ Config.openCut raw last t := by
  obtain ⟨u, rfl⟩ : ∃ u, t = u + 1 := ⟨t - 1, by omega⟩
  simp only [Config.openCut, h, if_true]
  omega

end Sys2Proof.Machine
end

