-- ==== Sys2Proof/Laws/State.lean ====
section
/-! SUPPORT. One lemma per field per update of State, true by rfl, so that no proof unfolds a record update. -/

namespace Sys2Proof.Machine

variable (s : State) (c : Config)

/-! ## Taking a fault (R325) -/

@[simp] theorem State.fail_ch (cause : Cause) (info : Nat) : (s.fail cause info).ch = s.ch := rfl
@[simp] theorem State.fail_cand (cause : Cause) (info : Nat) : (s.fail cause info).cand = s.cand := rfl
@[simp] theorem State.fail_best (cause : Cause) (info : Nat) : (s.fail cause info).best = s.best := rfl
@[simp] theorem State.fail_adHdr (cause : Cause) (info : Nat) : (s.fail cause info).adHdr = s.adHdr := rfl
@[simp] theorem State.fail_adMse (cause : Cause) (info : Nat) : (s.fail cause info).adMse = s.adMse := rfl
@[simp] theorem State.fail_adMin (cause : Cause) (info : Nat) : (s.fail cause info).adMin = s.adMin := rfl
@[simp] theorem State.fail_bwAcc (cause : Cause) (info : Nat) : (s.fail cause info).bwAcc = s.bwAcc := rfl
@[simp] theorem State.fail_bwLeft (cause : Cause) (info : Nat) : (s.fail cause info).bwLeft = s.bwLeft := rfl
@[simp] theorem State.fail_out (cause : Cause) (info : Nat) : (s.fail cause info).out = s.out := rfl
@[simp] theorem State.fail_fcWords (cause : Cause) (info : Nat) : (s.fail cause info).fcWords = s.fcWords := rfl
@[simp] theorem State.fail_fcQscale (cause : Cause) (info : Nat) : (s.fail cause info).fcQscale = s.fcQscale := rfl
@[simp] theorem State.fail_fcFrameIndex (cause : Cause) (info : Nat) : (s.fail cause info).fcFrameIndex = s.fcFrameIndex := rfl
@[simp] theorem State.fail_mb (cause : Cause) (info : Nat) : (s.fail cause info).mb = s.mb := rfl
@[simp] theorem State.fail_fb (cause : Cause) (info : Nat) : (s.fail cause info).fb = s.fb := rfl
@[simp] theorem State.fail_fbc (cause : Cause) (info : Nat) : (s.fail cause info).fbc = s.fbc := rfl
@[simp] theorem State.fail_dmx (cause : Cause) (info : Nat) : (s.fail cause info).dmx = s.dmx := rfl
@[simp] theorem State.fail_sec (cause : Cause) (info : Nat) : (s.fail cause info).sec = s.sec := rfl
@[simp] theorem State.fail_tsSave (cause : Cause) (info : Nat) : (s.fail cause info).tsSave = s.tsSave := rfl
@[simp] theorem State.fail_scr (cause : Cause) (info : Nat) : (s.fail cause info).scr = s.scr := rfl
@[simp] theorem State.fail_cfg (cause : Cause) (info : Nat) : (s.fail cause info).cfg = s.cfg := rfl
@[simp] theorem State.fail_phase (cause : Cause) (info : Nat) : (s.fail cause info).phase = .faulted := rfl
@[simp] theorem State.fail_fault (cause : Cause) (info : Nat) : (s.fail cause info).fault = true := rfl
@[simp] theorem State.fail_fcause (cause : Cause) (info : Nat) : (s.fail cause info).fcause = .put cause.code := rfl
@[simp] theorem State.fail_finfo (cause : Cause) (info : Nat) : (s.fail cause info).finfo = .put info := rfl
@[simp] theorem State.fail_tbuilt (cause : Cause) (info : Nat) : (s.fail cause info).tbuilt = s.tbuilt := rfl
@[simp] theorem State.fail_pcm (cause : Cause) (info : Nat) : (s.fail cause info).pcm = s.pcm := rfl
@[simp] theorem State.fail_rgba (cause : Cause) (info : Nat) : (s.fail cause info).rgba = s.rgba := rfl
@[simp] theorem State.fail_iso (cause : Cause) (info : Nat) : (s.fail cause info).iso = s.iso := rfl
@[simp] theorem State.fail_data (cause : Cause) (info : Nat) : (s.fail cause info).data = s.data := rfl
@[simp] theorem State.fail_sink (cause : Cause) (info : Nat) : (s.fail cause info).sink = s.sink := rfl
@[simp] theorem State.fail_epoch (cause : Cause) (info : Nat) : (s.fail cause info).epoch = s.epoch := rfl
@[simp] theorem State.fail_moves (cause : Cause) (info : Nat) : (s.fail cause info).moves = s.moves := rfl

/-! ## A change of phase (R281) -/

@[simp] theorem State.setPhase_ch (p : Phase) : (s.setPhase p).ch = s.ch := rfl
@[simp] theorem State.setPhase_cand (p : Phase) : (s.setPhase p).cand = s.cand := rfl
@[simp] theorem State.setPhase_best (p : Phase) : (s.setPhase p).best = s.best := rfl
@[simp] theorem State.setPhase_adHdr (p : Phase) : (s.setPhase p).adHdr = s.adHdr := rfl
@[simp] theorem State.setPhase_adMse (p : Phase) : (s.setPhase p).adMse = s.adMse := rfl
@[simp] theorem State.setPhase_adMin (p : Phase) : (s.setPhase p).adMin = s.adMin := rfl
@[simp] theorem State.setPhase_bwAcc (p : Phase) : (s.setPhase p).bwAcc = s.bwAcc := rfl
@[simp] theorem State.setPhase_bwLeft (p : Phase) : (s.setPhase p).bwLeft = s.bwLeft := rfl
@[simp] theorem State.setPhase_out (p : Phase) : (s.setPhase p).out = s.out := rfl
@[simp] theorem State.setPhase_fcWords (p : Phase) : (s.setPhase p).fcWords = s.fcWords := rfl
@[simp] theorem State.setPhase_fcQscale (p : Phase) : (s.setPhase p).fcQscale = s.fcQscale := rfl
@[simp] theorem State.setPhase_fcFrameIndex (p : Phase) : (s.setPhase p).fcFrameIndex = s.fcFrameIndex := rfl
@[simp] theorem State.setPhase_mb (p : Phase) : (s.setPhase p).mb = s.mb := rfl
@[simp] theorem State.setPhase_fb (p : Phase) : (s.setPhase p).fb = s.fb := rfl
@[simp] theorem State.setPhase_fbc (p : Phase) : (s.setPhase p).fbc = s.fbc := rfl
@[simp] theorem State.setPhase_dmx (p : Phase) : (s.setPhase p).dmx = s.dmx := rfl
@[simp] theorem State.setPhase_sec (p : Phase) : (s.setPhase p).sec = s.sec := rfl
@[simp] theorem State.setPhase_tsSave (p : Phase) : (s.setPhase p).tsSave = s.tsSave := rfl
@[simp] theorem State.setPhase_scr (p : Phase) : (s.setPhase p).scr = s.scr := rfl
@[simp] theorem State.setPhase_cfg (p : Phase) : (s.setPhase p).cfg = s.cfg := rfl
@[simp] theorem State.setPhase_phase (p : Phase) : (s.setPhase p).phase = p := rfl
@[simp] theorem State.setPhase_fault (p : Phase) : (s.setPhase p).fault = s.fault := rfl
@[simp] theorem State.setPhase_fcause (p : Phase) : (s.setPhase p).fcause = s.fcause := rfl
@[simp] theorem State.setPhase_finfo (p : Phase) : (s.setPhase p).finfo = s.finfo := rfl
@[simp] theorem State.setPhase_tbuilt (p : Phase) : (s.setPhase p).tbuilt = s.tbuilt := rfl
@[simp] theorem State.setPhase_pcm (p : Phase) : (s.setPhase p).pcm = s.pcm := rfl
@[simp] theorem State.setPhase_rgba (p : Phase) : (s.setPhase p).rgba = s.rgba := rfl
@[simp] theorem State.setPhase_iso (p : Phase) : (s.setPhase p).iso = s.iso := rfl
@[simp] theorem State.setPhase_data (p : Phase) : (s.setPhase p).data = s.data := rfl
@[simp] theorem State.setPhase_sink (p : Phase) : (s.setPhase p).sink = s.sink := rfl
@[simp] theorem State.setPhase_epoch (p : Phase) : (s.setPhase p).epoch = s.epoch := rfl
@[simp] theorem State.setPhase_moves (p : Phase) : (s.setPhase p).moves = s.moves := rfl

/-! ## A write to `SEC` -/

@[simp] theorem State.putSec_ch (a : Nat) (bs : List Byte) : (s.putSec a bs).ch = s.ch := rfl
@[simp] theorem State.putSec_cand (a : Nat) (bs : List Byte) : (s.putSec a bs).cand = s.cand := rfl
@[simp] theorem State.putSec_best (a : Nat) (bs : List Byte) : (s.putSec a bs).best = s.best := rfl
@[simp] theorem State.putSec_adHdr (a : Nat) (bs : List Byte) : (s.putSec a bs).adHdr = s.adHdr := rfl
@[simp] theorem State.putSec_adMse (a : Nat) (bs : List Byte) : (s.putSec a bs).adMse = s.adMse := rfl
@[simp] theorem State.putSec_adMin (a : Nat) (bs : List Byte) : (s.putSec a bs).adMin = s.adMin := rfl
@[simp] theorem State.putSec_bwAcc (a : Nat) (bs : List Byte) : (s.putSec a bs).bwAcc = s.bwAcc := rfl
@[simp] theorem State.putSec_bwLeft (a : Nat) (bs : List Byte) : (s.putSec a bs).bwLeft = s.bwLeft := rfl
@[simp] theorem State.putSec_out (a : Nat) (bs : List Byte) : (s.putSec a bs).out = s.out := rfl
@[simp] theorem State.putSec_fcWords (a : Nat) (bs : List Byte) : (s.putSec a bs).fcWords = s.fcWords := rfl
@[simp] theorem State.putSec_fcQscale (a : Nat) (bs : List Byte) : (s.putSec a bs).fcQscale = s.fcQscale := rfl
@[simp] theorem State.putSec_fcFrameIndex (a : Nat) (bs : List Byte) : (s.putSec a bs).fcFrameIndex = s.fcFrameIndex := rfl
@[simp] theorem State.putSec_mb (a : Nat) (bs : List Byte) : (s.putSec a bs).mb = s.mb := rfl
@[simp] theorem State.putSec_fb (a : Nat) (bs : List Byte) : (s.putSec a bs).fb = s.fb := rfl
@[simp] theorem State.putSec_fbc (a : Nat) (bs : List Byte) : (s.putSec a bs).fbc = s.fbc := rfl
@[simp] theorem State.putSec_dmx (a : Nat) (bs : List Byte) : (s.putSec a bs).dmx = s.dmx := rfl
@[simp] theorem State.putSec_sec (a : Nat) (bs : List Byte) : (s.putSec a bs).sec = s.sec.writeList a bs := rfl
@[simp] theorem State.putSec_tsSave (a : Nat) (bs : List Byte) : (s.putSec a bs).tsSave = s.tsSave := rfl
@[simp] theorem State.putSec_scr (a : Nat) (bs : List Byte) : (s.putSec a bs).scr = s.scr := rfl
@[simp] theorem State.putSec_cfg (a : Nat) (bs : List Byte) : (s.putSec a bs).cfg = s.cfg := rfl
@[simp] theorem State.putSec_phase (a : Nat) (bs : List Byte) : (s.putSec a bs).phase = s.phase := rfl
@[simp] theorem State.putSec_fault (a : Nat) (bs : List Byte) : (s.putSec a bs).fault = s.fault := rfl
@[simp] theorem State.putSec_fcause (a : Nat) (bs : List Byte) : (s.putSec a bs).fcause = s.fcause := rfl
@[simp] theorem State.putSec_finfo (a : Nat) (bs : List Byte) : (s.putSec a bs).finfo = s.finfo := rfl
@[simp] theorem State.putSec_tbuilt (a : Nat) (bs : List Byte) : (s.putSec a bs).tbuilt = s.tbuilt := rfl
@[simp] theorem State.putSec_pcm (a : Nat) (bs : List Byte) : (s.putSec a bs).pcm = s.pcm := rfl
@[simp] theorem State.putSec_rgba (a : Nat) (bs : List Byte) : (s.putSec a bs).rgba = s.rgba := rfl
@[simp] theorem State.putSec_iso (a : Nat) (bs : List Byte) : (s.putSec a bs).iso = s.iso := rfl
@[simp] theorem State.putSec_data (a : Nat) (bs : List Byte) : (s.putSec a bs).data = s.data := rfl
@[simp] theorem State.putSec_sink (a : Nat) (bs : List Byte) : (s.putSec a bs).sink = s.sink := rfl
@[simp] theorem State.putSec_epoch (a : Nat) (bs : List Byte) : (s.putSec a bs).epoch = s.epoch := rfl
@[simp] theorem State.putSec_moves (a : Nat) (bs : List Byte) : (s.putSec a bs).moves = s.moves := rfl

/-! ## Bytes to `SINK` (R259) -/

@[simp] theorem State.emit_ch (bs : List Byte) : (s.emit bs).ch = s.ch := rfl
@[simp] theorem State.emit_cand (bs : List Byte) : (s.emit bs).cand = s.cand := rfl
@[simp] theorem State.emit_best (bs : List Byte) : (s.emit bs).best = s.best := rfl
@[simp] theorem State.emit_adHdr (bs : List Byte) : (s.emit bs).adHdr = s.adHdr := rfl
@[simp] theorem State.emit_adMse (bs : List Byte) : (s.emit bs).adMse = s.adMse := rfl
@[simp] theorem State.emit_adMin (bs : List Byte) : (s.emit bs).adMin = s.adMin := rfl
@[simp] theorem State.emit_bwAcc (bs : List Byte) : (s.emit bs).bwAcc = s.bwAcc := rfl
@[simp] theorem State.emit_bwLeft (bs : List Byte) : (s.emit bs).bwLeft = s.bwLeft := rfl
@[simp] theorem State.emit_out (bs : List Byte) : (s.emit bs).out = s.out := rfl
@[simp] theorem State.emit_fcWords (bs : List Byte) : (s.emit bs).fcWords = s.fcWords := rfl
@[simp] theorem State.emit_fcQscale (bs : List Byte) : (s.emit bs).fcQscale = s.fcQscale := rfl
@[simp] theorem State.emit_fcFrameIndex (bs : List Byte) : (s.emit bs).fcFrameIndex = s.fcFrameIndex := rfl
@[simp] theorem State.emit_mb (bs : List Byte) : (s.emit bs).mb = s.mb := rfl
@[simp] theorem State.emit_fb (bs : List Byte) : (s.emit bs).fb = s.fb := rfl
@[simp] theorem State.emit_fbc (bs : List Byte) : (s.emit bs).fbc = s.fbc := rfl
@[simp] theorem State.emit_dmx (bs : List Byte) : (s.emit bs).dmx = s.dmx := rfl
@[simp] theorem State.emit_sec (bs : List Byte) : (s.emit bs).sec = s.sec := rfl
@[simp] theorem State.emit_tsSave (bs : List Byte) : (s.emit bs).tsSave = s.tsSave := rfl
@[simp] theorem State.emit_scr (bs : List Byte) : (s.emit bs).scr = s.scr := rfl
@[simp] theorem State.emit_cfg (bs : List Byte) : (s.emit bs).cfg = s.cfg := rfl
@[simp] theorem State.emit_phase (bs : List Byte) : (s.emit bs).phase = s.phase := rfl
@[simp] theorem State.emit_fault (bs : List Byte) : (s.emit bs).fault = s.fault := rfl
@[simp] theorem State.emit_fcause (bs : List Byte) : (s.emit bs).fcause = s.fcause := rfl
@[simp] theorem State.emit_finfo (bs : List Byte) : (s.emit bs).finfo = s.finfo := rfl
@[simp] theorem State.emit_tbuilt (bs : List Byte) : (s.emit bs).tbuilt = s.tbuilt := rfl
@[simp] theorem State.emit_pcm (bs : List Byte) : (s.emit bs).pcm = s.pcm := rfl
@[simp] theorem State.emit_rgba (bs : List Byte) : (s.emit bs).rgba = s.rgba := rfl
@[simp] theorem State.emit_iso (bs : List Byte) : (s.emit bs).iso = s.iso := rfl
@[simp] theorem State.emit_data (bs : List Byte) : (s.emit bs).data = s.data := rfl
@[simp] theorem State.emit_sink (bs : List Byte) : (s.emit bs).sink = s.sink ++ bs := rfl
@[simp] theorem State.emit_epoch (bs : List Byte) : (s.emit bs).epoch = s.epoch := rfl
@[simp] theorem State.emit_moves (bs : List Byte) : (s.emit bs).moves = s.moves := rfl

/-! ## A write to the channel bank (R21) -/

@[simp] theorem State.putChannel_ch (n : Nat) (v : Channel) : (s.putChannel n v).ch = if v = Channel.zero then Store.erase s.ch n else Store.put s.ch n v := rfl
@[simp] theorem State.putChannel_cand (n : Nat) (v : Channel) : (s.putChannel n v).cand = s.cand := rfl
@[simp] theorem State.putChannel_best (n : Nat) (v : Channel) : (s.putChannel n v).best = s.best := rfl
@[simp] theorem State.putChannel_adHdr (n : Nat) (v : Channel) : (s.putChannel n v).adHdr = s.adHdr := rfl
@[simp] theorem State.putChannel_adMse (n : Nat) (v : Channel) : (s.putChannel n v).adMse = s.adMse := rfl
@[simp] theorem State.putChannel_adMin (n : Nat) (v : Channel) : (s.putChannel n v).adMin = s.adMin := rfl
@[simp] theorem State.putChannel_bwAcc (n : Nat) (v : Channel) : (s.putChannel n v).bwAcc = s.bwAcc := rfl
@[simp] theorem State.putChannel_bwLeft (n : Nat) (v : Channel) : (s.putChannel n v).bwLeft = s.bwLeft := rfl
@[simp] theorem State.putChannel_out (n : Nat) (v : Channel) : (s.putChannel n v).out = s.out := rfl
@[simp] theorem State.putChannel_fcWords (n : Nat) (v : Channel) : (s.putChannel n v).fcWords = s.fcWords := rfl
@[simp] theorem State.putChannel_fcQscale (n : Nat) (v : Channel) : (s.putChannel n v).fcQscale = s.fcQscale := rfl
@[simp] theorem State.putChannel_fcFrameIndex (n : Nat) (v : Channel) : (s.putChannel n v).fcFrameIndex = s.fcFrameIndex := rfl
@[simp] theorem State.putChannel_mb (n : Nat) (v : Channel) : (s.putChannel n v).mb = s.mb := rfl
@[simp] theorem State.putChannel_fb (n : Nat) (v : Channel) : (s.putChannel n v).fb = s.fb := rfl
@[simp] theorem State.putChannel_fbc (n : Nat) (v : Channel) : (s.putChannel n v).fbc = s.fbc := rfl
@[simp] theorem State.putChannel_dmx (n : Nat) (v : Channel) : (s.putChannel n v).dmx = s.dmx := rfl
@[simp] theorem State.putChannel_sec (n : Nat) (v : Channel) : (s.putChannel n v).sec = s.sec := rfl
@[simp] theorem State.putChannel_tsSave (n : Nat) (v : Channel) : (s.putChannel n v).tsSave = s.tsSave := rfl
@[simp] theorem State.putChannel_scr (n : Nat) (v : Channel) : (s.putChannel n v).scr = s.scr := rfl
@[simp] theorem State.putChannel_cfg (n : Nat) (v : Channel) : (s.putChannel n v).cfg = s.cfg := rfl
@[simp] theorem State.putChannel_phase (n : Nat) (v : Channel) : (s.putChannel n v).phase = s.phase := rfl
@[simp] theorem State.putChannel_fault (n : Nat) (v : Channel) : (s.putChannel n v).fault = s.fault := rfl
@[simp] theorem State.putChannel_fcause (n : Nat) (v : Channel) : (s.putChannel n v).fcause = s.fcause := rfl
@[simp] theorem State.putChannel_finfo (n : Nat) (v : Channel) : (s.putChannel n v).finfo = s.finfo := rfl
@[simp] theorem State.putChannel_tbuilt (n : Nat) (v : Channel) : (s.putChannel n v).tbuilt = s.tbuilt := rfl
@[simp] theorem State.putChannel_pcm (n : Nat) (v : Channel) : (s.putChannel n v).pcm = s.pcm := rfl
@[simp] theorem State.putChannel_rgba (n : Nat) (v : Channel) : (s.putChannel n v).rgba = s.rgba := rfl
@[simp] theorem State.putChannel_iso (n : Nat) (v : Channel) : (s.putChannel n v).iso = s.iso := rfl
@[simp] theorem State.putChannel_data (n : Nat) (v : Channel) : (s.putChannel n v).data = s.data := rfl
@[simp] theorem State.putChannel_sink (n : Nat) (v : Channel) : (s.putChannel n v).sink = s.sink := rfl
@[simp] theorem State.putChannel_epoch (n : Nat) (v : Channel) : (s.putChannel n v).epoch = s.epoch := rfl
@[simp] theorem State.putChannel_moves (n : Nat) (v : Channel) : (s.putChannel n v).moves = s.moves := rfl

/-! ## A word to `OUT` (R133) -/

@[simp] theorem State.pushWord_ch : (s.pushWord c).ch = s.ch := rfl
@[simp] theorem State.pushWord_cand : (s.pushWord c).cand = s.cand := rfl
@[simp] theorem State.pushWord_best : (s.pushWord c).best = s.best := rfl
@[simp] theorem State.pushWord_adHdr : (s.pushWord c).adHdr = s.adHdr := rfl
@[simp] theorem State.pushWord_adMse : (s.pushWord c).adMse = s.adMse := rfl
@[simp] theorem State.pushWord_adMin : (s.pushWord c).adMin = s.adMin := rfl
@[simp] theorem State.pushWord_bwAcc : (s.pushWord c).bwAcc = 0 := rfl
@[simp] theorem State.pushWord_bwLeft : (s.pushWord c).bwLeft = c.accBits := rfl
@[simp] theorem State.pushWord_out : (s.pushWord c).out = s.out ++ [s.bwAcc.setWidth 8, (s.bwAcc >>> 8).setWidth 8] := rfl
@[simp] theorem State.pushWord_fcWords : (s.pushWord c).fcWords = s.fcWords := rfl
@[simp] theorem State.pushWord_fcQscale : (s.pushWord c).fcQscale = s.fcQscale := rfl
@[simp] theorem State.pushWord_fcFrameIndex : (s.pushWord c).fcFrameIndex = s.fcFrameIndex := rfl
@[simp] theorem State.pushWord_mb : (s.pushWord c).mb = s.mb := rfl
@[simp] theorem State.pushWord_fb : (s.pushWord c).fb = s.fb := rfl
@[simp] theorem State.pushWord_fbc : (s.pushWord c).fbc = s.fbc := rfl
@[simp] theorem State.pushWord_dmx : (s.pushWord c).dmx = s.dmx := rfl
@[simp] theorem State.pushWord_sec : (s.pushWord c).sec = s.sec := rfl
@[simp] theorem State.pushWord_tsSave : (s.pushWord c).tsSave = s.tsSave := rfl
@[simp] theorem State.pushWord_scr : (s.pushWord c).scr = s.scr := rfl
@[simp] theorem State.pushWord_cfg : (s.pushWord c).cfg = s.cfg := rfl
@[simp] theorem State.pushWord_phase : (s.pushWord c).phase = s.phase := rfl
@[simp] theorem State.pushWord_fault : (s.pushWord c).fault = s.fault := rfl
@[simp] theorem State.pushWord_fcause : (s.pushWord c).fcause = s.fcause := rfl
@[simp] theorem State.pushWord_finfo : (s.pushWord c).finfo = s.finfo := rfl
@[simp] theorem State.pushWord_tbuilt : (s.pushWord c).tbuilt = s.tbuilt := rfl
@[simp] theorem State.pushWord_pcm : (s.pushWord c).pcm = s.pcm := rfl
@[simp] theorem State.pushWord_rgba : (s.pushWord c).rgba = s.rgba := rfl
@[simp] theorem State.pushWord_iso : (s.pushWord c).iso = s.iso := rfl
@[simp] theorem State.pushWord_data : (s.pushWord c).data = s.data := rfl
@[simp] theorem State.pushWord_sink : (s.pushWord c).sink = s.sink := rfl
@[simp] theorem State.pushWord_epoch : (s.pushWord c).epoch = s.epoch := rfl
@[simp] theorem State.pushWord_moves : (s.pushWord c).moves = s.moves := rfl

/-! ## A field into the accumulator (R131) -/

@[simp] theorem State.placeBits_ch (n value : Nat) : (s.placeBits n value).ch = s.ch := rfl
@[simp] theorem State.placeBits_cand (n value : Nat) : (s.placeBits n value).cand = s.cand := rfl
@[simp] theorem State.placeBits_best (n value : Nat) : (s.placeBits n value).best = s.best := rfl
@[simp] theorem State.placeBits_adHdr (n value : Nat) : (s.placeBits n value).adHdr = s.adHdr := rfl
@[simp] theorem State.placeBits_adMse (n value : Nat) : (s.placeBits n value).adMse = s.adMse := rfl
@[simp] theorem State.placeBits_adMin (n value : Nat) : (s.placeBits n value).adMin = s.adMin := rfl
@[simp] theorem State.placeBits_bwAcc (n value : Nat) : (s.placeBits n value).bwAcc = s.bwAcc ||| BitVec.ofNat 16 (value <<< (s.bwLeft - n)) := rfl
@[simp] theorem State.placeBits_bwLeft (n value : Nat) : (s.placeBits n value).bwLeft = s.bwLeft - n := rfl
@[simp] theorem State.placeBits_out (n value : Nat) : (s.placeBits n value).out = s.out := rfl
@[simp] theorem State.placeBits_fcWords (n value : Nat) : (s.placeBits n value).fcWords = s.fcWords := rfl
@[simp] theorem State.placeBits_fcQscale (n value : Nat) : (s.placeBits n value).fcQscale = s.fcQscale := rfl
@[simp] theorem State.placeBits_fcFrameIndex (n value : Nat) : (s.placeBits n value).fcFrameIndex = s.fcFrameIndex := rfl
@[simp] theorem State.placeBits_mb (n value : Nat) : (s.placeBits n value).mb = s.mb := rfl
@[simp] theorem State.placeBits_fb (n value : Nat) : (s.placeBits n value).fb = s.fb := rfl
@[simp] theorem State.placeBits_fbc (n value : Nat) : (s.placeBits n value).fbc = s.fbc := rfl
@[simp] theorem State.placeBits_dmx (n value : Nat) : (s.placeBits n value).dmx = s.dmx := rfl
@[simp] theorem State.placeBits_sec (n value : Nat) : (s.placeBits n value).sec = s.sec := rfl
@[simp] theorem State.placeBits_tsSave (n value : Nat) : (s.placeBits n value).tsSave = s.tsSave := rfl
@[simp] theorem State.placeBits_scr (n value : Nat) : (s.placeBits n value).scr = s.scr := rfl
@[simp] theorem State.placeBits_cfg (n value : Nat) : (s.placeBits n value).cfg = s.cfg := rfl
@[simp] theorem State.placeBits_phase (n value : Nat) : (s.placeBits n value).phase = s.phase := rfl
@[simp] theorem State.placeBits_fault (n value : Nat) : (s.placeBits n value).fault = s.fault := rfl
@[simp] theorem State.placeBits_fcause (n value : Nat) : (s.placeBits n value).fcause = s.fcause := rfl
@[simp] theorem State.placeBits_finfo (n value : Nat) : (s.placeBits n value).finfo = s.finfo := rfl
@[simp] theorem State.placeBits_tbuilt (n value : Nat) : (s.placeBits n value).tbuilt = s.tbuilt := rfl
@[simp] theorem State.placeBits_pcm (n value : Nat) : (s.placeBits n value).pcm = s.pcm := rfl
@[simp] theorem State.placeBits_rgba (n value : Nat) : (s.placeBits n value).rgba = s.rgba := rfl
@[simp] theorem State.placeBits_iso (n value : Nat) : (s.placeBits n value).iso = s.iso := rfl
@[simp] theorem State.placeBits_data (n value : Nat) : (s.placeBits n value).data = s.data := rfl
@[simp] theorem State.placeBits_sink (n value : Nat) : (s.placeBits n value).sink = s.sink := rfl
@[simp] theorem State.placeBits_epoch (n value : Nat) : (s.placeBits n value).epoch = s.epoch := rfl
@[simp] theorem State.placeBits_moves (n value : Nat) : (s.placeBits n value).moves = s.moves := rfl

/-! ## The top of a split field (R131) -/

@[simp] theorem State.fillBits_ch (n value : Nat) : (s.fillBits n value).ch = s.ch := rfl
@[simp] theorem State.fillBits_cand (n value : Nat) : (s.fillBits n value).cand = s.cand := rfl
@[simp] theorem State.fillBits_best (n value : Nat) : (s.fillBits n value).best = s.best := rfl
@[simp] theorem State.fillBits_adHdr (n value : Nat) : (s.fillBits n value).adHdr = s.adHdr := rfl
@[simp] theorem State.fillBits_adMse (n value : Nat) : (s.fillBits n value).adMse = s.adMse := rfl
@[simp] theorem State.fillBits_adMin (n value : Nat) : (s.fillBits n value).adMin = s.adMin := rfl
@[simp] theorem State.fillBits_bwAcc (n value : Nat) : (s.fillBits n value).bwAcc = s.bwAcc ||| BitVec.ofNat 16 (value >>> (n - s.bwLeft)) := rfl
@[simp] theorem State.fillBits_bwLeft (n value : Nat) : (s.fillBits n value).bwLeft = 0 := rfl
@[simp] theorem State.fillBits_out (n value : Nat) : (s.fillBits n value).out = s.out := rfl
@[simp] theorem State.fillBits_fcWords (n value : Nat) : (s.fillBits n value).fcWords = s.fcWords := rfl
@[simp] theorem State.fillBits_fcQscale (n value : Nat) : (s.fillBits n value).fcQscale = s.fcQscale := rfl
@[simp] theorem State.fillBits_fcFrameIndex (n value : Nat) : (s.fillBits n value).fcFrameIndex = s.fcFrameIndex := rfl
@[simp] theorem State.fillBits_mb (n value : Nat) : (s.fillBits n value).mb = s.mb := rfl
@[simp] theorem State.fillBits_fb (n value : Nat) : (s.fillBits n value).fb = s.fb := rfl
@[simp] theorem State.fillBits_fbc (n value : Nat) : (s.fillBits n value).fbc = s.fbc := rfl
@[simp] theorem State.fillBits_dmx (n value : Nat) : (s.fillBits n value).dmx = s.dmx := rfl
@[simp] theorem State.fillBits_sec (n value : Nat) : (s.fillBits n value).sec = s.sec := rfl
@[simp] theorem State.fillBits_tsSave (n value : Nat) : (s.fillBits n value).tsSave = s.tsSave := rfl
@[simp] theorem State.fillBits_scr (n value : Nat) : (s.fillBits n value).scr = s.scr := rfl
@[simp] theorem State.fillBits_cfg (n value : Nat) : (s.fillBits n value).cfg = s.cfg := rfl
@[simp] theorem State.fillBits_phase (n value : Nat) : (s.fillBits n value).phase = s.phase := rfl
@[simp] theorem State.fillBits_fault (n value : Nat) : (s.fillBits n value).fault = s.fault := rfl
@[simp] theorem State.fillBits_fcause (n value : Nat) : (s.fillBits n value).fcause = s.fcause := rfl
@[simp] theorem State.fillBits_finfo (n value : Nat) : (s.fillBits n value).finfo = s.finfo := rfl
@[simp] theorem State.fillBits_tbuilt (n value : Nat) : (s.fillBits n value).tbuilt = s.tbuilt := rfl
@[simp] theorem State.fillBits_pcm (n value : Nat) : (s.fillBits n value).pcm = s.pcm := rfl
@[simp] theorem State.fillBits_rgba (n value : Nat) : (s.fillBits n value).rgba = s.rgba := rfl
@[simp] theorem State.fillBits_iso (n value : Nat) : (s.fillBits n value).iso = s.iso := rfl
@[simp] theorem State.fillBits_data (n value : Nat) : (s.fillBits n value).data = s.data := rfl
@[simp] theorem State.fillBits_sink (n value : Nat) : (s.fillBits n value).sink = s.sink := rfl
@[simp] theorem State.fillBits_epoch (n value : Nat) : (s.fillBits n value).epoch = s.epoch := rfl
@[simp] theorem State.fillBits_moves (n value : Nat) : (s.fillBits n value).moves = s.moves := rfl

/-! ## The start of a frame (R191) -/

@[simp] theorem State.beginFrame_ch : (s.beginFrame c).ch = s.ch := rfl
@[simp] theorem State.beginFrame_cand : (s.beginFrame c).cand = s.cand := rfl
@[simp] theorem State.beginFrame_best : (s.beginFrame c).best = s.best := rfl
@[simp] theorem State.beginFrame_adHdr : (s.beginFrame c).adHdr = s.adHdr := rfl
@[simp] theorem State.beginFrame_adMse : (s.beginFrame c).adMse = s.adMse := rfl
@[simp] theorem State.beginFrame_adMin : (s.beginFrame c).adMin = s.adMin := rfl
@[simp] theorem State.beginFrame_bwAcc : (s.beginFrame c).bwAcc = 0 := rfl
@[simp] theorem State.beginFrame_bwLeft : (s.beginFrame c).bwLeft = c.accBits := rfl
@[simp] theorem State.beginFrame_out : (s.beginFrame c).out = [] := rfl
@[simp] theorem State.beginFrame_fcWords : (s.beginFrame c).fcWords = 0 := rfl
@[simp] theorem State.beginFrame_fcQscale : (s.beginFrame c).fcQscale = s.fcQscale := rfl
@[simp] theorem State.beginFrame_fcFrameIndex : (s.beginFrame c).fcFrameIndex = s.fcFrameIndex := rfl
@[simp] theorem State.beginFrame_mb : (s.beginFrame c).mb = s.mb := rfl
@[simp] theorem State.beginFrame_fb : (s.beginFrame c).fb = s.fb := rfl
@[simp] theorem State.beginFrame_fbc : (s.beginFrame c).fbc = s.fbc := rfl
@[simp] theorem State.beginFrame_dmx : (s.beginFrame c).dmx = s.dmx := rfl
@[simp] theorem State.beginFrame_sec : (s.beginFrame c).sec = s.sec := rfl
@[simp] theorem State.beginFrame_tsSave : (s.beginFrame c).tsSave = s.tsSave := rfl
@[simp] theorem State.beginFrame_scr : (s.beginFrame c).scr = s.scr := rfl
@[simp] theorem State.beginFrame_cfg : (s.beginFrame c).cfg = s.cfg := rfl
@[simp] theorem State.beginFrame_phase : (s.beginFrame c).phase = s.phase := rfl
@[simp] theorem State.beginFrame_fault : (s.beginFrame c).fault = s.fault := rfl
@[simp] theorem State.beginFrame_fcause : (s.beginFrame c).fcause = s.fcause := rfl
@[simp] theorem State.beginFrame_finfo : (s.beginFrame c).finfo = s.finfo := rfl
@[simp] theorem State.beginFrame_tbuilt : (s.beginFrame c).tbuilt = s.tbuilt := rfl
@[simp] theorem State.beginFrame_pcm : (s.beginFrame c).pcm = s.pcm := rfl
@[simp] theorem State.beginFrame_rgba : (s.beginFrame c).rgba = s.rgba := rfl
@[simp] theorem State.beginFrame_iso : (s.beginFrame c).iso = s.iso := rfl
@[simp] theorem State.beginFrame_data : (s.beginFrame c).data = s.data := rfl
@[simp] theorem State.beginFrame_sink : (s.beginFrame c).sink = s.sink := rfl
@[simp] theorem State.beginFrame_epoch : (s.beginFrame c).epoch = s.epoch := rfl
@[simp] theorem State.beginFrame_moves : (s.beginFrame c).moves = s.moves := rfl

/-! ## Words counted (R212) -/

@[simp] theorem State.addWords_ch (n : Nat) : (s.addWords n).ch = s.ch := rfl
@[simp] theorem State.addWords_cand (n : Nat) : (s.addWords n).cand = s.cand := rfl
@[simp] theorem State.addWords_best (n : Nat) : (s.addWords n).best = s.best := rfl
@[simp] theorem State.addWords_adHdr (n : Nat) : (s.addWords n).adHdr = s.adHdr := rfl
@[simp] theorem State.addWords_adMse (n : Nat) : (s.addWords n).adMse = s.adMse := rfl
@[simp] theorem State.addWords_adMin (n : Nat) : (s.addWords n).adMin = s.adMin := rfl
@[simp] theorem State.addWords_bwAcc (n : Nat) : (s.addWords n).bwAcc = s.bwAcc := rfl
@[simp] theorem State.addWords_bwLeft (n : Nat) : (s.addWords n).bwLeft = s.bwLeft := rfl
@[simp] theorem State.addWords_out (n : Nat) : (s.addWords n).out = s.out := rfl
@[simp] theorem State.addWords_fcWords (n : Nat) : (s.addWords n).fcWords = s.fcWords + n := rfl
@[simp] theorem State.addWords_fcQscale (n : Nat) : (s.addWords n).fcQscale = s.fcQscale := rfl
@[simp] theorem State.addWords_fcFrameIndex (n : Nat) : (s.addWords n).fcFrameIndex = s.fcFrameIndex := rfl
@[simp] theorem State.addWords_mb (n : Nat) : (s.addWords n).mb = s.mb := rfl
@[simp] theorem State.addWords_fb (n : Nat) : (s.addWords n).fb = s.fb := rfl
@[simp] theorem State.addWords_fbc (n : Nat) : (s.addWords n).fbc = s.fbc := rfl
@[simp] theorem State.addWords_dmx (n : Nat) : (s.addWords n).dmx = s.dmx := rfl
@[simp] theorem State.addWords_sec (n : Nat) : (s.addWords n).sec = s.sec := rfl
@[simp] theorem State.addWords_tsSave (n : Nat) : (s.addWords n).tsSave = s.tsSave := rfl
@[simp] theorem State.addWords_scr (n : Nat) : (s.addWords n).scr = s.scr := rfl
@[simp] theorem State.addWords_cfg (n : Nat) : (s.addWords n).cfg = s.cfg := rfl
@[simp] theorem State.addWords_phase (n : Nat) : (s.addWords n).phase = s.phase := rfl
@[simp] theorem State.addWords_fault (n : Nat) : (s.addWords n).fault = s.fault := rfl
@[simp] theorem State.addWords_fcause (n : Nat) : (s.addWords n).fcause = s.fcause := rfl
@[simp] theorem State.addWords_finfo (n : Nat) : (s.addWords n).finfo = s.finfo := rfl
@[simp] theorem State.addWords_tbuilt (n : Nat) : (s.addWords n).tbuilt = s.tbuilt := rfl
@[simp] theorem State.addWords_pcm (n : Nat) : (s.addWords n).pcm = s.pcm := rfl
@[simp] theorem State.addWords_rgba (n : Nat) : (s.addWords n).rgba = s.rgba := rfl
@[simp] theorem State.addWords_iso (n : Nat) : (s.addWords n).iso = s.iso := rfl
@[simp] theorem State.addWords_data (n : Nat) : (s.addWords n).data = s.data := rfl
@[simp] theorem State.addWords_sink (n : Nat) : (s.addWords n).sink = s.sink := rfl
@[simp] theorem State.addWords_epoch (n : Nat) : (s.addWords n).epoch = s.epoch := rfl
@[simp] theorem State.addWords_moves (n : Nat) : (s.addWords n).moves = s.moves := rfl

/-! ## The word count rounded up (R212) -/

@[simp] theorem State.roundWords_ch : (s.roundWords).ch = s.ch := rfl
@[simp] theorem State.roundWords_cand : (s.roundWords).cand = s.cand := rfl
@[simp] theorem State.roundWords_best : (s.roundWords).best = s.best := rfl
@[simp] theorem State.roundWords_adHdr : (s.roundWords).adHdr = s.adHdr := rfl
@[simp] theorem State.roundWords_adMse : (s.roundWords).adMse = s.adMse := rfl
@[simp] theorem State.roundWords_adMin : (s.roundWords).adMin = s.adMin := rfl
@[simp] theorem State.roundWords_bwAcc : (s.roundWords).bwAcc = s.bwAcc := rfl
@[simp] theorem State.roundWords_bwLeft : (s.roundWords).bwLeft = s.bwLeft := rfl
@[simp] theorem State.roundWords_out : (s.roundWords).out = s.out := rfl
@[simp] theorem State.roundWords_fcWords : (s.roundWords).fcWords = (s.fcWords + 15) / 16 * 16 := rfl
@[simp] theorem State.roundWords_fcQscale : (s.roundWords).fcQscale = s.fcQscale := rfl
@[simp] theorem State.roundWords_fcFrameIndex : (s.roundWords).fcFrameIndex = s.fcFrameIndex := rfl
@[simp] theorem State.roundWords_mb : (s.roundWords).mb = s.mb := rfl
@[simp] theorem State.roundWords_fb : (s.roundWords).fb = s.fb := rfl
@[simp] theorem State.roundWords_fbc : (s.roundWords).fbc = s.fbc := rfl
@[simp] theorem State.roundWords_dmx : (s.roundWords).dmx = s.dmx := rfl
@[simp] theorem State.roundWords_sec : (s.roundWords).sec = s.sec := rfl
@[simp] theorem State.roundWords_tsSave : (s.roundWords).tsSave = s.tsSave := rfl
@[simp] theorem State.roundWords_scr : (s.roundWords).scr = s.scr := rfl
@[simp] theorem State.roundWords_cfg : (s.roundWords).cfg = s.cfg := rfl
@[simp] theorem State.roundWords_phase : (s.roundWords).phase = s.phase := rfl
@[simp] theorem State.roundWords_fault : (s.roundWords).fault = s.fault := rfl
@[simp] theorem State.roundWords_fcause : (s.roundWords).fcause = s.fcause := rfl
@[simp] theorem State.roundWords_finfo : (s.roundWords).finfo = s.finfo := rfl
@[simp] theorem State.roundWords_tbuilt : (s.roundWords).tbuilt = s.tbuilt := rfl
@[simp] theorem State.roundWords_pcm : (s.roundWords).pcm = s.pcm := rfl
@[simp] theorem State.roundWords_rgba : (s.roundWords).rgba = s.rgba := rfl
@[simp] theorem State.roundWords_iso : (s.roundWords).iso = s.iso := rfl
@[simp] theorem State.roundWords_data : (s.roundWords).data = s.data := rfl
@[simp] theorem State.roundWords_sink : (s.roundWords).sink = s.sink := rfl
@[simp] theorem State.roundWords_epoch : (s.roundWords).epoch = s.epoch := rfl
@[simp] theorem State.roundWords_moves : (s.roundWords).moves = s.moves := rfl

/-! ## The registers of AD.ENCODE (R166, R168) -/

@[simp] theorem State.commitBlock_ch (n : Nat) (v : Channel) (m : Nat) (b : Best) (x : Cand) : (s.commitBlock n v m b x).ch = (s.putChannel n { v with prev1 := x.prev1, prev2 := x.prev2 }).ch := rfl
@[simp] theorem State.commitBlock_cand (n : Nat) (v : Channel) (m : Nat) (b : Best) (x : Cand) : (s.commitBlock n v m b x).cand = .put x := rfl
@[simp] theorem State.commitBlock_best (n : Nat) (v : Channel) (m : Nat) (b : Best) (x : Cand) : (s.commitBlock n v m b x).best = .put b := rfl
@[simp] theorem State.commitBlock_adHdr (n : Nat) (v : Channel) (m : Nat) (b : Best) (x : Cand) : (s.commitBlock n v m b x).adHdr = .put (headerByte b.f b.r) := rfl
@[simp] theorem State.commitBlock_adMse (n : Nat) (v : Channel) (m : Nat) (b : Best) (x : Cand) : (s.commitBlock n v m b x).adMse = .put x.mse := rfl
@[simp] theorem State.commitBlock_adMin (n : Nat) (v : Channel) (m : Nat) (b : Best) (x : Cand) : (s.commitBlock n v m b x).adMin = .put m := rfl
@[simp] theorem State.commitBlock_bwAcc (n : Nat) (v : Channel) (m : Nat) (b : Best) (x : Cand) : (s.commitBlock n v m b x).bwAcc = s.bwAcc := rfl
@[simp] theorem State.commitBlock_bwLeft (n : Nat) (v : Channel) (m : Nat) (b : Best) (x : Cand) : (s.commitBlock n v m b x).bwLeft = s.bwLeft := rfl
@[simp] theorem State.commitBlock_out (n : Nat) (v : Channel) (m : Nat) (b : Best) (x : Cand) : (s.commitBlock n v m b x).out = s.out := rfl
@[simp] theorem State.commitBlock_fcWords (n : Nat) (v : Channel) (m : Nat) (b : Best) (x : Cand) : (s.commitBlock n v m b x).fcWords = s.fcWords := rfl
@[simp] theorem State.commitBlock_fcQscale (n : Nat) (v : Channel) (m : Nat) (b : Best) (x : Cand) : (s.commitBlock n v m b x).fcQscale = s.fcQscale := rfl
@[simp] theorem State.commitBlock_fcFrameIndex (n : Nat) (v : Channel) (m : Nat) (b : Best) (x : Cand) : (s.commitBlock n v m b x).fcFrameIndex = s.fcFrameIndex := rfl
@[simp] theorem State.commitBlock_mb (n : Nat) (v : Channel) (m : Nat) (b : Best) (x : Cand) : (s.commitBlock n v m b x).mb = s.mb := rfl
@[simp] theorem State.commitBlock_fb (n : Nat) (v : Channel) (m : Nat) (b : Best) (x : Cand) : (s.commitBlock n v m b x).fb = s.fb := rfl
@[simp] theorem State.commitBlock_fbc (n : Nat) (v : Channel) (m : Nat) (b : Best) (x : Cand) : (s.commitBlock n v m b x).fbc = s.fbc := rfl
@[simp] theorem State.commitBlock_dmx (n : Nat) (v : Channel) (m : Nat) (b : Best) (x : Cand) : (s.commitBlock n v m b x).dmx = s.dmx := rfl
@[simp] theorem State.commitBlock_sec (n : Nat) (v : Channel) (m : Nat) (b : Best) (x : Cand) : (s.commitBlock n v m b x).sec = s.sec := rfl
@[simp] theorem State.commitBlock_tsSave (n : Nat) (v : Channel) (m : Nat) (b : Best) (x : Cand) : (s.commitBlock n v m b x).tsSave = s.tsSave := rfl
@[simp] theorem State.commitBlock_scr (n : Nat) (v : Channel) (m : Nat) (b : Best) (x : Cand) : (s.commitBlock n v m b x).scr = s.scr := rfl
@[simp] theorem State.commitBlock_cfg (n : Nat) (v : Channel) (m : Nat) (b : Best) (x : Cand) : (s.commitBlock n v m b x).cfg = s.cfg := rfl
@[simp] theorem State.commitBlock_phase (n : Nat) (v : Channel) (m : Nat) (b : Best) (x : Cand) : (s.commitBlock n v m b x).phase = s.phase := rfl
@[simp] theorem State.commitBlock_fault (n : Nat) (v : Channel) (m : Nat) (b : Best) (x : Cand) : (s.commitBlock n v m b x).fault = s.fault := rfl
@[simp] theorem State.commitBlock_fcause (n : Nat) (v : Channel) (m : Nat) (b : Best) (x : Cand) : (s.commitBlock n v m b x).fcause = s.fcause := rfl
@[simp] theorem State.commitBlock_finfo (n : Nat) (v : Channel) (m : Nat) (b : Best) (x : Cand) : (s.commitBlock n v m b x).finfo = s.finfo := rfl
@[simp] theorem State.commitBlock_tbuilt (n : Nat) (v : Channel) (m : Nat) (b : Best) (x : Cand) : (s.commitBlock n v m b x).tbuilt = s.tbuilt := rfl
@[simp] theorem State.commitBlock_pcm (n : Nat) (v : Channel) (m : Nat) (b : Best) (x : Cand) : (s.commitBlock n v m b x).pcm = s.pcm := rfl
@[simp] theorem State.commitBlock_rgba (n : Nat) (v : Channel) (m : Nat) (b : Best) (x : Cand) : (s.commitBlock n v m b x).rgba = s.rgba := rfl
@[simp] theorem State.commitBlock_iso (n : Nat) (v : Channel) (m : Nat) (b : Best) (x : Cand) : (s.commitBlock n v m b x).iso = s.iso := rfl
@[simp] theorem State.commitBlock_data (n : Nat) (v : Channel) (m : Nat) (b : Best) (x : Cand) : (s.commitBlock n v m b x).data = s.data := rfl
@[simp] theorem State.commitBlock_sink (n : Nat) (v : Channel) (m : Nat) (b : Best) (x : Cand) : (s.commitBlock n v m b x).sink = s.sink := rfl
@[simp] theorem State.commitBlock_epoch (n : Nat) (v : Channel) (m : Nat) (b : Best) (x : Cand) : (s.commitBlock n v m b x).epoch = s.epoch := rfl
@[simp] theorem State.commitBlock_moves (n : Nat) (v : Channel) (m : Nat) (b : Best) (x : Cand) : (s.commitBlock n v m b x).moves = s.moves := rfl

/-! ## A command put before the pending actions -/

@[simp] theorem State.issue_ch (x : Command) : (s.issue x).ch = s.ch := rfl
@[simp] theorem State.issue_cand (x : Command) : (s.issue x).cand = s.cand := rfl
@[simp] theorem State.issue_best (x : Command) : (s.issue x).best = s.best := rfl
@[simp] theorem State.issue_adHdr (x : Command) : (s.issue x).adHdr = s.adHdr := rfl
@[simp] theorem State.issue_adMse (x : Command) : (s.issue x).adMse = s.adMse := rfl
@[simp] theorem State.issue_adMin (x : Command) : (s.issue x).adMin = s.adMin := rfl
@[simp] theorem State.issue_bwAcc (x : Command) : (s.issue x).bwAcc = s.bwAcc := rfl
@[simp] theorem State.issue_bwLeft (x : Command) : (s.issue x).bwLeft = s.bwLeft := rfl
@[simp] theorem State.issue_out (x : Command) : (s.issue x).out = s.out := rfl
@[simp] theorem State.issue_fcWords (x : Command) : (s.issue x).fcWords = s.fcWords := rfl
@[simp] theorem State.issue_fcQscale (x : Command) : (s.issue x).fcQscale = s.fcQscale := rfl
@[simp] theorem State.issue_fcFrameIndex (x : Command) : (s.issue x).fcFrameIndex = s.fcFrameIndex := rfl
@[simp] theorem State.issue_mb (x : Command) : (s.issue x).mb = s.mb := rfl
@[simp] theorem State.issue_fb (x : Command) : (s.issue x).fb = s.fb := rfl
@[simp] theorem State.issue_fbc (x : Command) : (s.issue x).fbc = s.fbc := rfl
@[simp] theorem State.issue_dmx (x : Command) : (s.issue x).dmx = s.dmx := rfl
@[simp] theorem State.issue_sec (x : Command) : (s.issue x).sec = s.sec := rfl
@[simp] theorem State.issue_tsSave (x : Command) : (s.issue x).tsSave = s.tsSave := rfl
@[simp] theorem State.issue_scr (x : Command) : (s.issue x).scr = s.scr := rfl
@[simp] theorem State.issue_cfg (x : Command) : (s.issue x).cfg = s.cfg := rfl
@[simp] theorem State.issue_phase (x : Command) : (s.issue x).phase = s.phase := rfl
@[simp] theorem State.issue_fault (x : Command) : (s.issue x).fault = s.fault := rfl
@[simp] theorem State.issue_fcause (x : Command) : (s.issue x).fcause = s.fcause := rfl
@[simp] theorem State.issue_finfo (x : Command) : (s.issue x).finfo = s.finfo := rfl
@[simp] theorem State.issue_tbuilt (x : Command) : (s.issue x).tbuilt = s.tbuilt := rfl
@[simp] theorem State.issue_pcm (x : Command) : (s.issue x).pcm = s.pcm := rfl
@[simp] theorem State.issue_rgba (x : Command) : (s.issue x).rgba = s.rgba := rfl
@[simp] theorem State.issue_iso (x : Command) : (s.issue x).iso = s.iso := rfl
@[simp] theorem State.issue_data (x : Command) : (s.issue x).data = s.data := rfl
@[simp] theorem State.issue_sink (x : Command) : (s.issue x).sink = s.sink := rfl
@[simp] theorem State.issue_epoch (x : Command) : (s.issue x).epoch = s.epoch := rfl
@[simp] theorem State.issue_moves (x : Command) : (s.issue x).moves = .command x :: s.moves := rfl

/-! ## SYS.RESET (R350) -/

@[simp] theorem State.resetKeepingHost_ch : (s.resetKeepingHost c).ch = [] := rfl
@[simp] theorem State.resetKeepingHost_cand : (s.resetKeepingHost c).cand = .atReset ⟨0, 0, 0, 0, List.replicate c.nsamp 0⟩ := rfl
@[simp] theorem State.resetKeepingHost_best : (s.resetKeepingHost c).best = .atReset ⟨none, 0, 0⟩ := rfl
@[simp] theorem State.resetKeepingHost_adHdr : (s.resetKeepingHost c).adHdr = .atReset 0 := rfl
@[simp] theorem State.resetKeepingHost_adMse : (s.resetKeepingHost c).adMse = .atReset 0 := rfl
@[simp] theorem State.resetKeepingHost_adMin : (s.resetKeepingHost c).adMin = .atReset 0 := rfl
@[simp] theorem State.resetKeepingHost_bwAcc : (s.resetKeepingHost c).bwAcc = 0 := rfl
@[simp] theorem State.resetKeepingHost_bwLeft : (s.resetKeepingHost c).bwLeft = c.accBits := rfl
@[simp] theorem State.resetKeepingHost_out : (s.resetKeepingHost c).out = [] := rfl
@[simp] theorem State.resetKeepingHost_fcWords : (s.resetKeepingHost c).fcWords = 0 := rfl
@[simp] theorem State.resetKeepingHost_fcQscale : (s.resetKeepingHost c).fcQscale = c.qscale := rfl
@[simp] theorem State.resetKeepingHost_fcFrameIndex : (s.resetKeepingHost c).fcFrameIndex = c.firstFrame := rfl
@[simp] theorem State.resetKeepingHost_mb : (s.resetKeepingHost c).mb = .atReset [] := rfl
@[simp] theorem State.resetKeepingHost_fb : (s.resetKeepingHost c).fb = [] := rfl
@[simp] theorem State.resetKeepingHost_fbc : (s.resetKeepingHost c).fbc = [] := rfl
@[simp] theorem State.resetKeepingHost_dmx : (s.resetKeepingHost c).dmx = ⟨c.nchunk * c.slotBytes, []⟩ := rfl
@[simp] theorem State.resetKeepingHost_sec : (s.resetKeepingHost c).sec = ⟨c.sectorBytes, []⟩ := rfl
@[simp] theorem State.resetKeepingHost_tsSave : (s.resetKeepingHost c).tsSave = .atReset [] := rfl
@[simp] theorem State.resetKeepingHost_scr : (s.resetKeepingHost c).scr = ⟨c.nsamp, []⟩ := rfl
@[simp] theorem State.resetKeepingHost_cfg : (s.resetKeepingHost c).cfg = .atReset := rfl
@[simp] theorem State.resetKeepingHost_phase : (s.resetKeepingHost c).phase = .init := rfl
@[simp] theorem State.resetKeepingHost_fault : (s.resetKeepingHost c).fault = false := rfl
@[simp] theorem State.resetKeepingHost_fcause : (s.resetKeepingHost c).fcause = .atReset 0 := rfl
@[simp] theorem State.resetKeepingHost_finfo : (s.resetKeepingHost c).finfo = .atReset 0 := rfl
@[simp] theorem State.resetKeepingHost_tbuilt : (s.resetKeepingHost c).tbuilt = false := rfl
@[simp] theorem State.resetKeepingHost_pcm : (s.resetKeepingHost c).pcm = s.pcm := rfl
@[simp] theorem State.resetKeepingHost_rgba : (s.resetKeepingHost c).rgba = s.rgba := rfl
@[simp] theorem State.resetKeepingHost_iso : (s.resetKeepingHost c).iso = s.iso := rfl
@[simp] theorem State.resetKeepingHost_data : (s.resetKeepingHost c).data = s.data := rfl
@[simp] theorem State.resetKeepingHost_sink : (s.resetKeepingHost c).sink = s.sink := rfl
@[simp] theorem State.resetKeepingHost_epoch : (s.resetKeepingHost c).epoch = s.epoch + 1 := rfl
@[simp] theorem State.resetKeepingHost_moves : (s.resetKeepingHost c).moves = s.moves := rfl

end Sys2Proof.Machine
end

