-- ==== Sys2Proof/Laws/Commands.lean ====
section
/-! SUPPORT. One lemma per simple command that says everything it can do: a next state is a fault taken, or the
state the command's rule gives. -/

namespace Sys2Proof.Machine

/-- A fault was taken in `s`. -/
def Faulted (s t : State) : Prop := ∃ cause info, t = s.fail cause info

theorem Faulted.of_raise {cause : Cause} {info : Nat} {s t : State} (h : raise cause info s = .next t) : Faulted s t :=
  ⟨cause, info, raise_eq_next h⟩

/-- A command that is all or nothing (R323) either takes its fault in the state it began in, or ran clean. -/
theorem allOrNothing_eq_next {s t : State} {r : Result} (h : allOrNothing s r = .next t) :
    Faulted s t ∨ (r = .next t ∧ t.fault = false) := by
  unfold allOrNothing at h
  split at h
  · rename_i u
    split_ifs at h with hu
    · exact .inl (.of_raise h)
    · injection h with h; subst h; exact .inr ⟨rfl, by simpa using hu⟩
  · cases h
  · cases h

theorem allOrNothing_ok {s t : State} (h : t.fault = false) : allOrNothing s (.next t) = .next t := by
  simp [allOrNothing, h]

/-! ## Bit Writer -/

theorem pushWord_hw {c : Config} (hc : Sizes c) (s : State) : s.pushWord c = s.pushWord Config.hw := by
  simp [State.pushWord, hc.accBits]

theorem bwWrite_eq_next {c : Config} (hc : Sizes c) {n value : Nat} {s t : State} (h : bwWrite c n value s = .next t) :
    Faulted s t ∨ (n ≤ 16 ∧ value < 2 ^ n ∧
      ((n ≤ s.bwLeft ∧ t = s.placeBits n value) ∨
       (s.bwLeft < n ∧ outFull c s = false ∧
        t = ((s.fillBits n value).pushWord Config.hw).placeBits (n - s.bwLeft) (value % 2 ^ (n - s.bwLeft))))) := by
  unfold bwWrite at h
  rw [hc.bwNmax, pushWord_hw hc] at h
  split_ifs at h with h1 h2 h3 h4
  · exact .inl (.of_raise h)
  · exact .inl (.of_raise h)
  · injection h with h; exact .inr ⟨by omega, by omega, .inl ⟨h3, h.symm⟩⟩
  · exact .inl (.of_raise h)
  · injection h with h; exact .inr ⟨by omega, by omega, .inr ⟨by omega, by simpa using h4, h.symm⟩⟩

theorem bwFlush_eq_next {c : Config} (hc : Sizes c) {s t : State} (h : bwFlush c s = .next t) :
    Faulted s t ∨ (s.bwLeft < 16 ∧ outFull c s = false ∧ t = s.pushWord Config.hw) ∨ (16 ≤ s.bwLeft ∧ t = s) := by
  unfold bwFlush at h
  rw [hc.accBits, pushWord_hw hc] at h
  split_ifs at h with h1 h2
  · exact .inl (.of_raise h)
  · injection h with h; exact .inr (.inl ⟨h1, by simpa using h2, h.symm⟩)
  · injection h with h; exact .inr (.inr ⟨by omega, h.symm⟩)

/-! ## ADPCM Encoder -/

theorem checkChannel_eq_next {ch : Nat} {s t : State} {r : Result} (h : checkChannel ch s r = .next t) :
    s.cfg.channels.written = true ∧ (Faulted s t ∨ (ch < s.cfg.channels.val ∧ r = .next t)) := by
  obtain ⟨hw, h⟩ := need_eq_next h
  refine ⟨hw, ?_⟩
  split_ifs at h with h1
  · exact .inl (.of_raise h)
  · exact .inr ⟨by omega, h⟩

theorem checkFilter_eq_next {c : Config} (hc : Sizes c) {ch stride f : Nat} {s t : State} {r : Result}
    (h : checkFilter c ch stride f s r = .next t) :
    Faulted s t ∨ (ch < s.cfg.channels.val ∧ f < 5 ∧ 1 ≤ stride ∧ r = .next t) := by
  rcases (checkChannel_eq_next h).2 with h | ⟨hch, h⟩
  · exact .inl h
  · rw [hc.nfilt] at h
    split_ifs at h with h1 h2
    · exact .inl (.of_raise h)
    · exact .inl (.of_raise h)
    · exact .inr ⟨hch, by omega, by omega, h⟩

theorem adReset_eq_next {ch : Nat} {s t : State} (h : adReset ch s = .next t) :
    Faulted s t ∨ (ch < s.cfg.channels.val ∧ t = s.putChannel ch Channel.zero) := by
  rcases (checkChannel_eq_next h).2 with h | ⟨hc, h⟩
  · exact .inl h
  · injection h with h; exact .inr ⟨hc, h.symm⟩

theorem adMinshift_eq_next {c : Config} (hc : Sizes c) {ch base stride f : Nat} {s t : State}
    (h : adMinshift c ch base stride f s = .next t) :
    Faulted s t ∨ (ch < s.cfg.channels.val ∧ f < 5 ∧ 1 ≤ stride ∧
      t = { s with adMin := .put (minShiftOf c (s.channel ch) (s.samples c base stride) f) }) := by
  rcases checkFilter_eq_next hc h with h | ⟨h1, h2, h3, h⟩
  · exact .inl h
  · injection h with h; exact .inr ⟨h1, h2, h3, h.symm⟩

theorem adTrial_eq_next {c : Config} (hc : Sizes c) {ch base stride f r : Nat} {s t : State}
    (h : adTrial c ch base stride f r s = .next t) :
    Faulted s t ∨ (ch < s.cfg.channels.val ∧ f < 5 ∧ 1 ≤ stride ∧ r ≤ 12 ∧
      t = { s with cand := .put (candOf c (s.channel ch) (s.samples c base stride) f r) }) := by
  rcases checkFilter_eq_next hc h with h | ⟨h1, h2, h3, h⟩
  · exact .inl h
  · rw [hc.shiftMax] at h
    split_ifs at h with h4
    · exact .inl (.of_raise h)
    · injection h with h
      exact .inr ⟨h1, h2, h3, by omega, h.symm⟩

theorem mem_laneAddrs {c : Config} (hc : Sizes c) {dbase dataPitch a : Nat} :
    a ∈ laneAddrs c dbase dataPitch ↔ ∃ i, i < 28 ∧ a = dbase + i * dataPitch := by
  simp [laneAddrs, hc.nsamp, eq_comm]

/-- The state AD.ENCODE commits (R166). -/
def State.encoded (c : Config) (t : Target) (ch base stride fc dbase ds dp : Nat) (s : State) : State :=
  (s.putNibbles c t dbase ds dp
    (candOf c (s.channel ch) (s.samples c base stride) (searchBest c (s.channel ch) (s.samples c base stride) fc).f
      (searchBest c (s.channel ch) (s.samples c base stride) fc).r).nib).commitBlock ch (s.channel ch)
    (minShiftOf c (s.channel ch) (s.samples c base stride) (fc - 1))
    (searchBest c (s.channel ch) (s.samples c base stride) fc)
    (candOf c (s.channel ch) (s.samples c base stride) (searchBest c (s.channel ch) (s.samples c base stride) fc).f
      (searchBest c (s.channel ch) (s.samples c base stride) fc).r)

/-- When AD.ENCODE's operands are in range (R166). -/
structure EncodeOperands (s : State) (t : Target) (ch stride fc dbase ds dp : Nat) : Prop where
  channel : ch < s.cfg.channels.val
  stride : 1 ≤ stride
  filters : 1 ≤ fc ∧ fc ≤ 5
  lane : ds = 0 ∨ ds = 4
  pitch : 1 ≤ dp
  inside : ∀ i, i < 28 → dbase + i * dp < s.targetSize t

theorem adEncode_eq_next {c : Config} (hc : Sizes c) {t : Target} {ch base stride fc dbase ds dp : Nat} {s u : State}
    (h : adEncode c t ch base stride fc dbase ds dp s = .next u) :
    Faulted s u ∨ (s.cfg.channels.written = true ∧ EncodeOperands s t ch stride fc dbase ds dp ∧
      u = s.encoded c t ch base stride fc dbase ds dp) := by
  have hw := (checkChannel_eq_next h).1
  rcases (checkChannel_eq_next h).2 with h | ⟨hch, h⟩
  · exact .inl h
  · rw [hc.nfilt] at h
    split_ifs at h with h1 h2 h3 h4
    · exact .inl (.of_raise h)
    · exact .inl (.of_raise h)
    · exact .inl (.of_raise h)
    · exact .inl (.of_raise h)
    · split at h
      · exact .inl (.of_raise h)
      · rename_i hn
        injection h with h
        refine .inr ⟨hw, ⟨hch, by omega, by omega, by omega, by omega, fun i hi => ?_⟩, h.symm⟩
        have := List.find?_eq_none.1 hn (dbase + i * dp) ((mem_laneAddrs hc).2 ⟨i, hi, rfl⟩)
        simpa using this

theorem adEncode_runs {c : Config} (hc : Sizes c) {t : Target} {ch base stride fc dbase ds dp : Nat} {s : State}
    (hw : s.cfg.channels.written = true) (h : EncodeOperands s t ch stride fc dbase ds dp) :
    adEncode c t ch base stride fc dbase ds dp s = .next (s.encoded c t ch base stride fc dbase ds dp) := by
  obtain ⟨h1, h2, h3, h4, h5, h6⟩ := h
  have hn : (laneAddrs c dbase dp).find? (fun a => decide (s.targetSize t ≤ a)) = none := by
    rw [List.find?_eq_none]
    intro a ha
    obtain ⟨i, hi, rfl⟩ := (mem_laneAddrs hc).1 ha
    simpa using h6 i hi
  unfold adEncode checkEncode checkChannel
  rw [need_written hw, hc.nfilt, if_neg (by omega), if_neg (by omega), if_neg (by omega), if_neg (by omega), if_neg (by omega), hn]
  rfl

/-! ## DCT Video Block Encoder -/

theorem needSize_eq_next {s t : State} {k : Nat → Nat → Result} (h : needSize s k = .next t) :
    s.cfg.width.written = true ∧ s.cfg.height.written = true ∧ k s.cfg.width.val s.cfg.height.val = .next t := by
  obtain ⟨h1, h⟩ := need_eq_next h
  obtain ⟨h2, h⟩ := need_eq_next h
  exact ⟨h1, h2, h⟩

theorem needSize_written {s : State} {k : Nat → Nat → Result} (hw : s.cfg.width.written = true)
    (hh : s.cfg.height.written = true) : needSize s k = k s.cfg.width.val s.cfg.height.val := by
  rw [needSize, need_written hw, need_written hh]

theorem beginFrame_hw {c : Config} (hc : Sizes c) (s : State) : s.beginFrame c = s.beginFrame Config.hw := by
  simp [State.beginFrame, hc.accBits]

theorem vdBegin_eq_next {c : Config} (hc : Sizes c) {s t : State} (h : vdBegin c s = .next t) :
    Faulted s t ∨ (s.cfg.width.written = true ∧ s.cfg.height.written = true ∧ 0 < s.cfg.width.val ∧
      s.cfg.width.val % 16 = 0 ∧ 0 < s.cfg.height.val ∧ s.cfg.height.val % 16 = 0 ∧ t = s.beginFrame Config.hw) := by
  unfold vdBegin at h
  rw [beginFrame_hw hc] at h
  obtain ⟨hw, h⟩ := need_eq_next h
  split_ifs at h with h1
  · exact .inl (.of_raise h)
  · obtain ⟨hh, h⟩ := need_eq_next h
    split_ifs at h with h2
    · exact .inl (.of_raise h)
    · injection h with h
      exact .inr ⟨hw, hh, by omega, by omega, by omega, by omega, h.symm⟩

theorem vdCsc_eq_next {c : Config} {n mx my : Nat} {s t : State} (h : vdCsc c n mx my s = .next t) :
    Faulted s t ∨ (mx < macroblocks s.cfg.width.val ∧ my < macroblocks s.cfg.height.val ∧
      frameEnd s.cfg.width.val s.cfg.height.val n ≤ s.rgba.size ∧
      t = { s with mb := .put (macroblock c s s.cfg.width.val s.cfg.height.val n mx my) }) := by
  obtain ⟨-, h⟩ := need_eq_next h
  split_ifs at h with h1
  · exact .inl (.of_raise h)
  obtain ⟨-, h⟩ := need_eq_next h
  split_ifs at h with h2 h3
  · exact .inl (.of_raise h)
  · exact .inl (.of_raise h)
  · injection h with h; exact .inr ⟨by omega, by omega, by omega, h.symm⟩

theorem vdDct_eq_next {c : Config} {b : Nat} {s t : State} (h : vdDct c b s = .next t) :
    Faulted s t ∨ (b ≤ 5 ∧ s.mb.written = true ∧
      t = { s with mb := .put (s.mb.val.set b (dctBlock c (s.mb.val.getD b []))) }) := by
  unfold vdDct at h
  split_ifs at h with h1
  · exact .inl (.of_raise h)
  · obtain ⟨hw, h⟩ := need_eq_next h
    injection h with h; exact .inr ⟨by omega, hw, h.symm⟩

theorem vdQuant_eq_next {c : Config} {b m : Nat} {s t : State} (h : vdQuant c b m s = .next t) :
    Faulted s t ∨ (b ≤ 5 ∧ m < nmb s.cfg.width.val s.cfg.height.val ∧ s.mb.written = true ∧
      t = { s with fb := Store.put s.fb (blockKey m b) (quantBlock c (s.mb.val.getD b [])) }) := by
  unfold vdQuant at h
  split_ifs at h with h1
  · exact .inl (.of_raise h)
  · obtain ⟨-, -, h⟩ := needSize_eq_next h
    split_ifs at h with h2
    · exact .inl (.of_raise h)
    · obtain ⟨hw, h⟩ := need_eq_next h
      injection h with h; exact .inr ⟨by omega, by omega, hw, h.symm⟩

/-- What VD.RATE leaves in `FBC` (R206). -/
def rateResult (c : Config) (s : State) : List QBlock :=
  let frame := snapshot s.fb (nmb s.cfg.width.val s.cfg.height.val)
  cutFrame c (rateLoop c frame c.cutLast 0) frame

theorem vdRate_eq_next {c : Config} {s t : State} (h : vdRate c s = .next t) :
    snapshotWritten s.fb (nmb s.cfg.width.val s.cfg.height.val) = true ∧
      t = { s with fbc := Store.putList s.fbc 0 (rateResult c s) } := by
  obtain ⟨-, -, h⟩ := needSize_eq_next h
  split_ifs at h with h1
  injection h with h; exact ⟨h1, h.symm⟩

theorem vdPack_eq_next {c : Config} {m b : Nat} {s t : State} (h : vdPack c m b s = .next t) :
    Faulted s t ∨ (b ≤ 5 ∧ m < nmb s.cfg.width.val s.cfg.height.val ∧
      ∃ q, Store.lookup s.fbc (blockKey m b) = some q ∧ packBlock c q s = .next t ∧ t.fault = false) := by
  unfold vdPack at h
  split_ifs at h with h1
  · exact .inl (.of_raise h)
  · obtain ⟨-, -, h⟩ := needSize_eq_next h
    split_ifs at h with h2
    · exact .inl (.of_raise h)
    · split at h
      · rename_i q hq
        rcases allOrNothing_eq_next h with h | ⟨h, hf⟩
        · exact .inl h
        · exact .inr ⟨by omega, by omega, q, hq, h, hf⟩
      · cases h

/-- The fields of VD.END (R213), before its all or nothing. -/
theorem vdEnd_eq_next {c : Config} {s t : State} (h : vdEnd c s = .next t) :
    Faulted s t ∨ (t.fault = false ∧ andThen (bwWrite c 10 c.sentinel s) (fun u =>
      andThen (bwWrite c 2 c.eob u) fun v => bwFlush c (v.addWords 2).roundWords) = .next t) := by
  rcases allOrNothing_eq_next h with h | ⟨h, hf⟩
  · exact .inl h
  · exact .inr ⟨hf, h⟩

theorem vdDemux_eq_next {c : Config} (hc : Sizes c) {s t : State} (h : vdDemux c s = .next t) :
    Faulted s t ∨ (s.out.length ≤ 14112 ∧
      t = { s with dmx := s.dmx.writeList 0 (demuxBytes c s s.cfg.width.val s.cfg.height.val),
                   fcFrameIndex := s.fcFrameIndex + 1 }) := by
  unfold vdDemux Config.frameBytes at h
  rw [hc.nchunk, hc.chunkBytes] at h
  split_ifs at h with h1
  · exact .inl (.of_raise h)
  · obtain ⟨-, -, h⟩ := needSize_eq_next h
    injection h with h
    exact .inr ⟨by omega, h.symm⟩

/-! ## Sector Assembler -/

theorem scTables_eq_next {s t : State} (h : scTables s = .next t) : t = { s with tbuilt := true } := by
  injection h with h; exact h.symm

theorem scInit_eq_next {submode coding : Nat} {s t : State} (h : scInit submode coding s = .next t) :
    Faulted s t ∨ (submode ≤ 255 ∧ coding ≤ 255 ∧ s.cfg.file.written = true ∧ s.cfg.channel.written = true ∧
      t = s.putSec 0 (initBytes s.cfg.file.val s.cfg.channel.val submode coding)) := by
  unfold scInit at h
  split_ifs at h with h1 h2
  · exact .inl (.of_raise h)
  · exact .inl (.of_raise h)
  · obtain ⟨h3, h⟩ := need_eq_next h
    obtain ⟨h4, h⟩ := need_eq_next h
    injection h with h; exact .inr ⟨by omega, by omega, h3, h4, h.symm⟩

theorem scStamp_eq_next {c : Config} {lba : Nat} {s t : State} (h : scStamp c lba s = .next t) :
    Faulted s t ∨ (lba + c.lbaBase < 450000 ∧ t = s.putSec 0 (stampBytes c (lba + c.lbaBase))) := by
  unfold scStamp at h
  split_ifs at h with h1
  · exact .inl (.of_raise h)
  · injection h with h; exact .inr ⟨by omega, h.symm⟩

theorem scEdc_eq_next {c : Config} {form : Nat} {s t : State} (h : scEdc c form s = .next t) :
    Faulted s t ∨ (s.tbuilt = true ∧ (form = 1 ∨ form = 2) ∧ s.sec.cells ≠ [] ∧
      t = s.putSec (0x010 + edcLength form) (le32 (sectorEdc c form s))) := by
  unfold scEdc at h
  split_ifs at h with h1 h2
  · exact .inl (.of_raise h)
  · exact .inl (.of_raise h)
  · obtain ⟨h3, h⟩ := needSec_eq_next h
    injection h with h; exact .inr ⟨by simpa using h1, by omega, h3, h.symm⟩

/-- What SC.PQ leaves (R256). -/
def State.withParity (c : Config) (s : State) : State :=
  { (s.putSec 0x81C (pqBytes c s.secByte)).putSec 0x00C (bytesOf s.secByte 0x00C 4) with
    tsSave := .put (bytesOf s.secByte 0x00C 4) }

theorem scPq_eq_next {c : Config} {s t : State} (h : scPq c s = .next t) :
    Faulted s t ∨ (s.tbuilt = true ∧ s.sec.cells ≠ [] ∧ t = s.withParity c) := by
  unfold scPq at h
  split_ifs at h with h1
  · exact .inl (.of_raise h)
  · obtain ⟨h3, h⟩ := needSec_eq_next h
    injection h with h; exact .inr ⟨by simpa using h1, h3, h.symm⟩

theorem scEmit_eq_next {c : Config} (hc : Sizes c) {size : Nat} {s t : State} (h : scEmit c size s = .next t) :
    Faulted s t ∨ (s.sec.cells ≠ [] ∧
      ((size = 2352 ∧ t = s.emit (bytesOf s.secByte 0x000 2352)) ∨
       (size = 2336 ∧ t = s.emit (bytesOf s.secByte 0x010 2336)))) := by
  unfold scEmit at h
  rw [hc.sectorBytes] at h
  split_ifs at h with h1 h2
  · obtain ⟨h3, h⟩ := needSec_eq_next h
    injection h with h; exact .inr ⟨h3, .inl ⟨h1, h.symm⟩⟩
  · obtain ⟨h3, h⟩ := needSec_eq_next h
    injection h with h; exact .inr ⟨h3, .inr ⟨h2, h.symm⟩⟩
  · exact .inl (.of_raise h)

end Sys2Proof.Machine
end

