-- ==== Sys2Proof/Laws/PerInstr.lean ====
section
/-! SUPPORT. Statements about every instruction, one lemma per constructor (LAWS.json). -/

namespace Sys2Proof.Laws

/-- The command of an instruction decodes to it (R90, R91). -/
def Encoding.Statement (i : Instr) : Prop := decode (encode i) = .ok i

theorem Encoding.bwWrite (n value : Nat) : Encoding.Statement (.bwWrite n value) := rfl
theorem Encoding.bwFlush : Encoding.Statement .bwFlush := rfl
theorem Encoding.adReset (c : Nat) : Encoding.Statement (.adReset c) := rfl
theorem Encoding.adMinshift (c base stride f : Nat) : Encoding.Statement (.adMinshift c base stride f) := rfl
theorem Encoding.adTrial (c base stride f r : Nat) : Encoding.Statement (.adTrial c base stride f r) := rfl
theorem Encoding.adEncode (c base stride filterCount dbase dataShift dataPitch : Nat) :
    Encoding.Statement (.adEncode c base stride filterCount dbase dataShift dataPitch) := rfl
theorem Encoding.vdBegin : Encoding.Statement .vdBegin := rfl
theorem Encoding.vdCsc (n mx my : Nat) : Encoding.Statement (.vdCsc n mx my) := rfl
theorem Encoding.vdDct (b : Nat) : Encoding.Statement (.vdDct b) := rfl
theorem Encoding.vdQuant (b m : Nat) : Encoding.Statement (.vdQuant b m) := rfl
theorem Encoding.vdRate : Encoding.Statement .vdRate := rfl
theorem Encoding.vdPack (m b : Nat) : Encoding.Statement (.vdPack m b) := rfl
theorem Encoding.vdEnd : Encoding.Statement .vdEnd := rfl
theorem Encoding.vdDemux : Encoding.Statement .vdDemux := rfl
theorem Encoding.vdFrame (n : Nat) : Encoding.Statement (.vdFrame n) := rfl
theorem Encoding.scTables : Encoding.Statement .scTables := rfl
theorem Encoding.scInit (submode coding : Nat) : Encoding.Statement (.scInit submode coding) := rfl
theorem Encoding.scStamp (lba : Nat) : Encoding.Statement (.scStamp lba) := rfl
theorem Encoding.scEdc (form : Nat) : Encoding.Statement (.scEdc form) := rfl
theorem Encoding.scPq : Encoding.Statement .scPq := rfl
theorem Encoding.scEmit (size : Nat) : Encoding.Statement (.scEmit size) := rfl
theorem Encoding.mxXa : Encoding.Statement .mxXa := rfl
theorem Encoding.mxSpu : Encoding.Statement .mxSpu := rfl
theorem Encoding.mxSpui : Encoding.Statement .mxSpui := rfl
theorem Encoding.mxStr : Encoding.Statement .mxStr := rfl
theorem Encoding.mxIso2raw : Encoding.Statement .mxIso2raw := rfl
theorem Encoding.sysReset : Encoding.Statement .sysReset := rfl
theorem Encoding.sysValidate : Encoding.Statement .sysValidate := rfl

end Sys2Proof.Laws
end

