-- ==== Sys2Proof/Laws/Reach.lean ====
section
/-! SUPPORT. Every command is a chain of small updates of the state. A property that each update keeps is kept by
every command, however long its sequence (R219, R285 to R297). -/

namespace Sys2Proof.Machine

/-- One small update: what a simple command, or an inner step of a composite one, does to the state. -/
inductive Update : State → State → Prop where
  | fail (s : State) (cause : Cause) (info : Nat) : Update s (s.fail cause info)
  | place (s : State) (n value : Nat) (hv : value < 2 ^ n) (hn : n ≤ s.bwLeft) : Update s (s.placeBits n value)
  | split (s : State) (n value : Nat) (hv : value < 2 ^ n) (hl : s.bwLeft < n) (hn : n ≤ 16) :
      Update s (((s.fillBits n value).pushWord Config.hw).placeBits (n - s.bwLeft) (value % 2 ^ (n - s.bwLeft)))
  | flush (s : State) (hl : s.bwLeft < 16) : Update s (s.pushWord Config.hw)
  | clearChannel (s : State) (ch : Nat) : Update s (s.putChannel ch Channel.zero)
  | minshift (s : State) (m : Nat) : Update s { s with adMin := .put m }
  | trial (s : State) (x : Cand) : Update s { s with cand := .put x }
  | encode (s : State) (c : Config) (hc : Sizes c) (t : Target) (ch base stride fc dbase ds dp : Nat)
      (h : EncodeOperands s t ch stride fc dbase ds dp) : Update s (s.encoded c t ch base stride fc dbase ds dp)
  | begin (s : State) : Update s (s.beginFrame Config.hw)
  | blocks (s : State) (x : List Block) : Update s { s with mb := .put x }
  | quant (s : State) (key : Nat) (q : QBlock) : Update s { s with fb := Store.put s.fb key q }
  | rate (s : State) (qs : List QBlock) : Update s { s with fbc := Store.putList s.fbc 0 qs }
  | words (s : State) (n : Nat) : Update s { s with fcWords := n }
  | demux (s : State) (bs : List Byte) (h : bs.length = 14336) (n : Nat) :
      Update s { s with dmx := s.dmx.writeList 0 bs, fcFrameIndex := n }
  | tables (s : State) : Update s { s with tbuilt := true }
  | sector (s : State) (a : Nat) (bs : List Byte) (h : a + bs.length ≤ 2352) : Update s (s.putSec a bs)
  | saved (s : State) (bs : List Byte) : Update s { s with tsSave := .put bs }
  | emit (s : State) (bs : List Byte) : Update s (s.emit bs)
  | frameIndex (s : State) (n : Nat) : Update s { s with fcFrameIndex := n }

/-- A chain of updates. -/
inductive Reach : State → State → Prop where
  | refl (s : State) : Reach s s
  | tail {s t u : State} : Reach s t → Update t u → Reach s u

/-- A chain of updates and changes of phase. -/
inductive ReachPhase : State → State → Prop where
  | refl (s : State) : ReachPhase s s
  | tail {s t u : State} : ReachPhase s t → Update t u → ReachPhase s u
  | phase {s t : State} (p : Phase) : ReachPhase s t → p ≠ .faulted → ReachPhase s (t.setPhase p)

theorem Update.reach {s t : State} (h : Update s t) : Reach s t := .tail (.refl s) h

theorem Reach.trans {s t u : State} (h : Reach s t) (k : Reach t u) : Reach s u := by
  induction k with
  | refl => exact h
  | tail _ hu ih => exact .tail ih hu

theorem Reach.withPhase {s t : State} (h : Reach s t) : ReachPhase s t := by
  induction h with
  | refl => exact .refl _
  | tail _ hu ih => exact .tail ih hu

theorem ReachPhase.trans {s t u : State} (h : ReachPhase s t) (k : ReachPhase t u) : ReachPhase s u := by
  induction k with
  | refl => exact h
  | tail _ hu ih => exact .tail ih hu
  | phase p _ hp ih => exact .phase p ih hp

/-- A property every update keeps is kept along a chain. -/
theorem Reach.keeps {P : State → Prop} (hP : ∀ s t, P s → Update s t → P t) {s t : State} (h : Reach s t) (hs : P s) :
    P t := by
  induction h with
  | refl => exact hs
  | tail _ hu ih => exact hP _ _ ih hu

theorem ReachPhase.keeps {P : State → Prop} (hP : ∀ s t, P s → Update s t → P t)
    (hp : ∀ s p, P s → p ≠ Phase.faulted → P (s.setPhase p)) {s t : State} (h : ReachPhase s t) (hs : P s) : P t := by
  induction h with
  | refl => exact hs
  | tail _ hu ih => exact hP _ _ ih hu
  | phase p _ hne ih => exact hp _ p ih hne

theorem Faulted.reach {s t : State} (h : Faulted s t) : Reach s t := by
  obtain ⟨c, i, rfl⟩ := h; exact (Update.fail s c i).reach

theorem Reach.andThen {r : Result} {f : State → Result} {s t : State} (h : Machine.andThen r f = .next t)
    (hr : ∀ u, r = .next u → Reach s u) (hf : ∀ u, f u = .next t → Reach u t) : Reach s t := by
  rcases andThen_eq_next h with ⟨u, hu, -, ht⟩ | ⟨hu, -⟩
  · exact (hr u hu).trans (hf u ht)
  · exact hr t hu

theorem Reach.forEach {α : Type} {f : α → State → Result} (xs : List α)
    (hf : ∀ x ∈ xs, ∀ s t, f x s = .next t → Reach s t) {s t : State} (h : Machine.forEach xs f s = .next t) :
    Reach s t := by
  induction xs generalizing s with
  | nil => rw [forEach_nil] at h; injection h with h; exact h ▸ .refl s
  | cons x xs ih =>
    exact Reach.andThen h (fun u hu => hf x (by simp) s u hu)
      (fun u hu => ih (fun y hy => hf y (by simp [hy])) hu)

theorem ReachPhase.andThen {r : Result} {f : State → Result} {s t : State} (h : Machine.andThen r f = .next t)
    (hr : ∀ u, r = .next u → ReachPhase s u) (hf : ∀ u, f u = .next t → ReachPhase u t) : ReachPhase s t := by
  rcases andThen_eq_next h with ⟨u, hu, -, ht⟩ | ⟨hu, -⟩
  · exact (hr u hu).trans (hf u ht)
  · exact hr t hu

theorem ReachPhase.forEach {α : Type} {f : α → State → Result} (xs : List α)
    (hf : ∀ x ∈ xs, ∀ s t, f x s = .next t → ReachPhase s t) {s t : State} (h : Machine.forEach xs f s = .next t) :
    ReachPhase s t := by
  induction xs generalizing s with
  | nil => rw [forEach_nil] at h; injection h with h; exact h ▸ .refl s
  | cons x xs ih =>
    exact ReachPhase.andThen h (fun u hu => hf x (by simp) s u hu)
      (fun u hu => ih (fun y hy => hf y (by simp [hy])) hu)

/-! ## The simple commands -/

theorem bwWrite_reach {c : Config} (hc : Sizes c) {n value : Nat} {s t : State}
    (h : bwWrite c n value s = .next t) : Reach s t := by
  rcases bwWrite_eq_next hc h with h | ⟨hn, hv, ⟨hl, rfl⟩ | ⟨hl, -, rfl⟩⟩
  · exact h.reach
  · exact (Update.place s n value hv hl).reach
  · exact (Update.split s n value hv hl hn).reach

theorem bwFlush_reach {c : Config} (hc : Sizes c) {s t : State} (h : bwFlush c s = .next t) : Reach s t := by
  rcases bwFlush_eq_next hc h with h | ⟨hl, -, rfl⟩ | ⟨-, rfl⟩
  · exact h.reach
  · exact (Update.flush s hl).reach
  · exact .refl _

theorem adReset_reach {ch : Nat} {s t : State} (h : adReset ch s = .next t) : Reach s t := by
  rcases adReset_eq_next h with h | ⟨-, rfl⟩
  · exact h.reach
  · exact (Update.clearChannel s ch).reach

theorem adMinshift_reach {c : Config} (hc : Sizes c) {ch base stride f : Nat} {s t : State}
    (h : adMinshift c ch base stride f s = .next t) : Reach s t := by
  rcases adMinshift_eq_next hc h with h | ⟨-, -, -, rfl⟩
  · exact h.reach
  · exact (Update.minshift s _).reach

theorem adTrial_reach {c : Config} (hc : Sizes c) {ch base stride f r : Nat} {s t : State}
    (h : adTrial c ch base stride f r s = .next t) : Reach s t := by
  rcases adTrial_eq_next hc h with h | ⟨-, -, -, -, rfl⟩
  · exact h.reach
  · exact (Update.trial s _).reach

theorem adEncode_reach {c : Config} (hc : Sizes c) {t : Target} {ch base stride fc dbase ds dp : Nat} {s u : State}
    (h : adEncode c t ch base stride fc dbase ds dp s = .next u) : Reach s u := by
  rcases adEncode_eq_next hc h with h | ⟨-, hop, rfl⟩
  · exact h.reach
  · exact (Update.encode s c hc t ch base stride fc dbase ds dp hop).reach

theorem vdBegin_reach {c : Config} (hc : Sizes c) {s t : State} (h : vdBegin c s = .next t) : Reach s t := by
  rcases vdBegin_eq_next hc h with h | ⟨-, -, -, -, -, -, rfl⟩
  · exact h.reach
  · exact (Update.begin s).reach

theorem vdCsc_reach {c : Config} {n mx my : Nat} {s t : State} (h : vdCsc c n mx my s = .next t) : Reach s t := by
  rcases vdCsc_eq_next h with h | ⟨-, -, -, rfl⟩
  · exact h.reach
  · exact (Update.blocks s _).reach

theorem vdDct_reach {c : Config} {b : Nat} {s t : State} (h : vdDct c b s = .next t) : Reach s t := by
  rcases vdDct_eq_next h with h | ⟨-, -, rfl⟩
  · exact h.reach
  · exact (Update.blocks s _).reach

theorem vdQuant_reach {c : Config} {b m : Nat} {s t : State} (h : vdQuant c b m s = .next t) : Reach s t := by
  rcases vdQuant_eq_next h with h | ⟨-, -, -, rfl⟩
  · exact h.reach
  · exact (Update.quant s _ _).reach

theorem vdRate_reach {c : Config} {s t : State} (h : vdRate c s = .next t) : Reach s t := by
  obtain ⟨-, rfl⟩ := vdRate_eq_next h; exact (Update.rate s _).reach

theorem addWords_reach (s : State) (n : Nat) : Reach s (s.addWords n) := (Update.words s _).reach

theorem roundWords_reach (s : State) : Reach s s.roundWords := (Update.words s _).reach

theorem packAc_reach {c : Config} (hc : Sizes c) (vs : List (BitVec 10)) {run : Nat} {s t : State}
    (h : packAc c vs run s = .next t) : Reach s t := by
  induction vs generalizing run s with
  | nil => injection h with h; exact h ▸ .refl s
  | cons v vs ih =>
    unfold packAc at h
    split_ifs at h
    · exact ih h
    · exact Reach.andThen h (fun u hu => bwWrite_reach hc hu) fun u hu =>
        Reach.andThen hu (fun u hu => bwWrite_reach hc hu) fun u hu => (addWords_reach u 1).trans (ih hu)

theorem packBlock_reach {c : Config} (hc : Sizes c) {q : QBlock} {s t : State}
    (h : packBlock c q s = .next t) : Reach s t := by
  refine Reach.andThen h (fun u hu => bwWrite_reach hc hu) fun u hu => ?_
  refine Reach.andThen hu (fun v hv => (addWords_reach u 1).trans (packAc_reach hc _ hv)) fun v hv => ?_
  refine Reach.andThen hv (fun w hw => bwWrite_reach hc hw) fun w hw => ?_
  injection hw with hw
  exact hw ▸ (addWords_reach w 1).trans (roundWords_reach _)

theorem vdPack_reach {c : Config} (hc : Sizes c) {m b : Nat} {s t : State} (h : vdPack c m b s = .next t) : Reach s t := by
  rcases vdPack_eq_next h with h | ⟨-, -, q, -, h, -⟩
  · exact h.reach
  · exact packBlock_reach hc h

theorem vdEnd_reach {c : Config} (hc : Sizes c) {s t : State} (h : vdEnd c s = .next t) : Reach s t := by
  rcases vdEnd_eq_next h with h | ⟨-, h⟩
  · exact h.reach
  refine Reach.andThen h (fun u hu => bwWrite_reach hc hu) fun u hu => ?_
  refine Reach.andThen hu (fun v hv => bwWrite_reach hc hv) fun v hv => ?_
  exact ((addWords_reach v 2).trans (roundWords_reach _)).trans (bwFlush_reach hc hv)

theorem chunkHeader_length (c : Config) (s : State) (w h j : Nat) : (chunkHeader c s w h j).length = 32 := by
  unfold chunkHeader
  cases c.hdrLayout <;> simp

theorem chunkPayload_length {c : Config} (hc : Sizes c) (out : List Byte) (j : Nat) :
    (chunkPayload c out j).length = 2016 := by
  simp only [chunkPayload, hc.chunkBytes, List.length_append, List.length_replicate, List.length_take, List.length_drop]
  omega

theorem demuxBytes_length {c : Config} (hc : Sizes c) (s : State) (w h : Nat) : (demuxBytes c s w h).length = 14336 := by
  unfold demuxBytes
  rw [List.length_flatMap, hc.nchunk]
  have : (List.map (fun j => (chunkHeader c s w h j ++ chunkPayload c s.out j).length) (List.range 7)) =
      (List.range 7).map fun _ => 2048 := by
    apply List.map_congr_left
    intro j _
    rw [List.length_append, chunkHeader_length, chunkPayload_length hc]
  rw [this]; rfl

theorem vdDemux_reach {c : Config} (hc : Sizes c) {s t : State} (h : vdDemux c s = .next t) : Reach s t := by
  rcases vdDemux_eq_next hc h with h | ⟨-, rfl⟩
  · exact h.reach
  · exact (Update.demux s _ (demuxBytes_length hc _ _ _) _).reach

theorem scTables_reach {s t : State} (h : scTables s = .next t) : Reach s t := by
  rw [scTables_eq_next h]; exact (Update.tables s).reach

theorem scInit_reach {submode coding : Nat} {s t : State} (h : scInit submode coding s = .next t) : Reach s t := by
  rcases scInit_eq_next h with h | ⟨-, -, -, -, rfl⟩
  · exact h.reach
  · exact (Update.sector s _ _ (by simp [initBytes, subheader])).reach

theorem stampBytes_length {c : Config} (hc : Sizes c) (a : Nat) : (stampBytes c a).length = 16 := by
  simp [stampBytes, hc.sync]

theorem scStamp_reach {c : Config} (hc : Sizes c) {lba : Nat} {s t : State} (h : scStamp c lba s = .next t) : Reach s t := by
  rcases scStamp_eq_next h with h | ⟨-, rfl⟩
  · exact h.reach
  · exact (Update.sector s _ _ (by rw [stampBytes_length hc]; decide)).reach

theorem scEdc_reach {c : Config} {form : Nat} {s t : State} (h : scEdc c form s = .next t) : Reach s t := by
  rcases scEdc_eq_next h with h | ⟨-, hf, -, rfl⟩
  · exact h.reach
  · refine (Update.sector s _ _ ?_).reach
    rcases hf with rfl | rfl <;> simp [edcLength, le32]

theorem pqBytes_length (c : Config) (read : Nat → Byte) : (pqBytes c read).length = 276 := by
  simp [pqBytes, pBytes, qBytes, parityBytes]

theorem scPq_reach {c : Config} {s t : State} (h : scPq c s = .next t) : Reach s t := by
  rcases scPq_eq_next h with h | ⟨-, -, rfl⟩
  · exact h.reach
  · refine ((Update.sector s 0x81C _ ?_).reach.trans (Update.sector _ 0x00C (bytesOf s.secByte 0x00C 4) ?_).reach).trans
      (Update.saved _ (bytesOf s.secByte 0x00C 4)).reach
    · rw [pqBytes_length]
    · simp

theorem scEmit_reach {c : Config} (hc : Sizes c) {size : Nat} {s t : State} (h : scEmit c size s = .next t) : Reach s t := by
  rcases scEmit_eq_next hc h with h | ⟨-, ⟨-, rfl⟩ | ⟨-, rfl⟩⟩
  · exact h.reach
  · exact (Update.emit s _).reach
  · exact (Update.emit s _).reach

/-! ## VD.FRAME and the sectors -/

theorem vdFrame_reach {c : Config} (hc : Sizes c) {n : Nat} {s t : State} (h : vdFrame c n s = .next t) : Reach s t := by
  refine Reach.andThen h (fun u hu => vdBegin_reach hc hu) fun u hu => ?_
  obtain ⟨-, -, hu⟩ := needSize_eq_next hu
  refine Reach.andThen hu (fun v hv => ?_) fun v hv => ?_
  · refine Reach.forEach _ (fun m _ x y hxy => ?_) hv
    refine Reach.andThen hxy (fun z hz => vdCsc_reach hz) fun z hz => ?_
    refine Reach.forEach _ (fun b _ x y hxy => ?_) hz
    exact Reach.andThen hxy (fun z hz => vdDct_reach hz) fun z hz => vdQuant_reach hz
  refine Reach.andThen hv (fun w hw => vdRate_reach hw) fun w hw => ?_
  refine Reach.andThen hw (fun x hx => ?_) fun x hx => ?_
  · refine Reach.forEach _ (fun m _ y z hyz => ?_) hx
    exact Reach.forEach _ (fun b _ y z hyz => vdPack_reach hc hyz) hyz
  · exact Reach.andThen hx (fun y hy => vdEnd_reach hc hy) fun y hy => vdDemux_reach hc hy

theorem putHeaders_reach (s : State) (g u : Nat) (hg : g ≤ 2216) (hu : u < 8) : Reach s (s.putHeaders g u) := by
  have h : (headerAddrs g u).1 < 2352 ∧ (headerAddrs g u).2 < 2352 := by
    unfold headerAddrs; split_ifs <;> constructor <;> simp only <;> omega
  exact (Update.sector s (headerAddrs g u).1 [s.adHdr.val] (by have := h.1; simp; omega)).reach.trans
    (Update.sector _ (headerAddrs g u).2 [s.adHdr.val] (by have := h.2; simp; omega)).reach

theorem xaSector_reach {c : Config} (hc : Sizes c) {ch n : Nat} {last : Bool} {s t : State}
    (h : xaSector c ch n last s = .next t) : Reach s t := by
  obtain ⟨-, h⟩ := need_eq_next h
  obtain ⟨-, h⟩ := need_eq_next h
  refine Reach.andThen h (fun u hu => scInit_reach hu) fun u hu => ?_
  refine (Update.sector u 0x018 (List.replicate 2328 0) (by rw [List.length_replicate])).reach.trans
    (Reach.forEach _ (fun g hg x y hxy => ?_) hu)
  refine Reach.forEach _ (fun v hv x y hxy => ?_) hxy
  have hg' : g < 18 := hc.xaCadence ▸ List.mem_range.1 hg
  have hv' : v < 8 := List.mem_range.1 hv
  refine Reach.andThen hxy (fun z hz => adEncode_reach hc hz) fun z hz => ?_
  injection hz with hz
  exact hz ▸ putHeaders_reach z _ v (by omega) hv'

theorem strVideoSector_reach {c : Config} (hc : Sizes c) {j : Nat} {last : Bool} {s t : State}
    (h : strVideoSector c j last s = .next t) : Reach s t := by
  refine Reach.andThen h (fun u hu => scInit_reach hu) fun u hu => ?_
  injection hu with hu
  subst hu
  exact (Update.sector u 0x018 _ (by simp [Config.slotBytes, hc.hdrBytes, hc.chunkBytes])).reach.trans
    (Update.sector _ 0x818 _ (by rw [List.length_replicate])).reach

theorem ite_next_reach {p : Prop} [Decidable p] {f : State → Result} {s t : State}
    (h : (if p then f s else .next s) = .next t) (hf : ∀ u, f s = .next u → Reach s u) : Reach s t := by
  split_ifs at h
  · exact hf t h
  · injection h with h; exact h ▸ .refl s

theorem strSector_reach {c : Config} (hc : Sizes c) {format : Format} {ch g i : Nat} {last : Bool} {s t : State}
    (h : strSector c format ch g i last s = .next t) : Reach s t := by
  refine Reach.andThen h (fun u hu => ?_) fun u hu => ?_
  · split_ifs at hu
    · exact xaSector_reach hc hu
    · exact strVideoSector_reach hc hu
    · exact strVideoSector_reach hc hu
  refine Reach.andThen hu (fun v hv => scStamp_reach hc hv) fun v hv => ?_
  refine Reach.andThen hv (fun w hw => scEdc_reach hw) fun w hw => ?_
  refine Reach.andThen hw (fun x hx => ite_next_reach hx fun _ => scPq_reach) fun x hx => scEmit_reach hc hx

theorem rawSector_reach {c : Config} (hc : Sizes c) {n : Nat} {s t : State} (h : rawSector c n s = .next t) : Reach s t := by
  refine Reach.andThen h (fun u hu => scInit_reach hu) fun u hu => ?_
  refine (Update.sector u 0x018 (bytesOf u.isoByte (2048 * n) 2048) (by simp)).reach.trans ?_
  refine Reach.andThen hu (fun v hv => scStamp_reach hc hv) fun v hv => ?_
  refine Reach.andThen hv (fun w hw => scEdc_reach hw) fun w hw => ?_
  exact Reach.andThen hw (fun x hx => scPq_reach hx) fun x hx => scEmit_reach hc hx

theorem spuUnit_reach {c : Config} (hc : Sizes c) {n ch j : Nat} {flags : Bool → Byte} {s t : State}
    (h : spuUnit c n ch j flags s = .next t) : Reach s t := by
  obtain ⟨-, h⟩ := need_eq_next h
  refine Reach.andThen h (fun u hu => adEncode_reach hc hu) fun u hu => ?_
  injection hu with hu
  exact hu ▸ (Update.emit u _).reach

/-! ## The MX commands -/

/-- What the check of one field can answer. -/
theorem checkSetting_eq_next {read : Bool} {m : Marked Nat} {item : Item} {ok : Nat → Bool} {yes no : Result} {t : State}
    (h : checkSetting read m item ok yes no = .next t) : yes = .next t ∨ no = .next t := by
  unfold checkSetting at h
  split_ifs at h <;> first | exact .inl h | exact .inr h

theorem cfgValidLast_eq_next {g : Settings} {f : Format} {k : Option Nat → Result} {t : State}
    (h : cfgValidLast g f k = .next t) : ∃ o, k o = .next t := by
  rcases checkSetting_eq_next h with h | h
  · rcases checkSetting_eq_next h with h | h
    · rcases checkSetting_eq_next h with h | h <;> exact ⟨_, h⟩
    · exact ⟨_, h⟩
  · exact ⟨_, h⟩

theorem cfgValidRest_eq_next {g : Settings} {f : Format} {k : Option Nat → Result} {t : State}
    (h : cfgValidRest g f k = .next t) : ∃ o, k o = .next t := by
  have hi : ∀ f, cfgValidInterleave g f k = .next t → ∃ o, k o = .next t := by
    intro f h
    obtain ⟨-, h⟩ := need_eq_next h
    split_ifs at h
    · obtain ⟨-, h⟩ := need_eq_next h
      split_ifs at h
      · exact cfgValidLast_eq_next h
      · exact ⟨_, h⟩
    · exact cfgValidLast_eq_next h
    · exact ⟨_, h⟩
  have hv : ∀ f, cfgValidVideo g f k = .next t → ∃ o, k o = .next t := by
    intro f h
    obtain ⟨-, h⟩ := need_eq_next h
    split_ifs at h
    · obtain ⟨-, h⟩ := need_eq_next h
      split_ifs at h
      · exact cfgValidLast_eq_next h
      · exact ⟨_, h⟩
    · exact ⟨_, h⟩
  cases f <;> first | exact hi _ h | exact hv _ h | exact cfgValidLast_eq_next h

/-- What the check of `CFG` can answer: what its continuation answers. -/
theorem cfgValid_eq_next {c : Config} {g : Settings} {k : Option Nat → Result} {t : State}
    (h : cfgValid c g k = .next t) : ∃ o, k o = .next t := by
  obtain ⟨-, h⟩ := need_eq_next h
  split_ifs at h
  · obtain ⟨-, h⟩ := need_eq_next h
    split_ifs at h
    · obtain ⟨-, h⟩ := need_eq_next h
      split_ifs at h
      · obtain ⟨-, h⟩ := need_eq_next h
        split_ifs at h
        · exact cfgValidRest_eq_next h
        · exact ⟨_, h⟩
      · exact ⟨_, h⟩
    · exact ⟨_, h⟩
  · exact ⟨_, h⟩

theorem startStream_eq_next {c : Config} {s t : State} (h : startStream c s = .next t) :
    Faulted s t ∨ (s.phase = .init ∧ ∃ u, forEach (List.range s.cfg.channels.val) adReset s = .next u ∧
      ((u.fault = true ∧ t = u) ∨ t = { u with fcFrameIndex := c.firstFrame, phase := .encoding })) := by
  unfold startStream needInit at h
  split_ifs at h with h1
  · obtain ⟨o, h⟩ := cfgValid_eq_next h
    cases o with
    | some k => exact .inl (.of_raise h)
    | none =>
      obtain ⟨-, h⟩ := need_eq_next h
      rcases andThen_eq_next h with ⟨u, hu, -, ht⟩ | ⟨hu, hf⟩
      · injection ht with ht; exact .inr ⟨h1, u, hu, .inr ht.symm⟩
      · exact .inr ⟨h1, t, hu, .inl ⟨hf, rfl⟩⟩
  · exact .inl (.of_raise h)

theorem startStream_reach {c : Config} {s t : State} (h : startStream c s = .next t) : ReachPhase s t := by
  rcases startStream_eq_next h with h | ⟨-, u, hu, ⟨-, rfl⟩ | rfl⟩
  · exact h.reach.withPhase
  · exact (Reach.forEach _ (fun _ _ _ _ => adReset_reach) hu).withPhase
  · have hr := (Reach.forEach _ (fun _ _ _ _ => adReset_reach) hu).withPhase
    exact .phase (t := { u with fcFrameIndex := c.firstFrame }) .encoding (.tail hr (Update.frameIndex u _)) (by decide)

theorem chunkLoop_reach {n : Nat} {body : Nat → State → Result}
    (hb : ∀ i s t, body i s = .next t → Reach s t) {s t : State} (h : chunkLoop n body s = .next t) : ReachPhase s t := by
  refine ReachPhase.andThen h (fun u hu => ?_) fun u hu => ?_
  · refine ReachPhase.forEach _ (fun i _ x y hxy => ?_) hu
    refine ReachPhase.trans ?_ (hb i _ _ hxy).withPhase
    unfold State.finalizeAt
    split_ifs
    · exact .phase .finalize (.refl x) (by decide)
    · exact .refl x
  · injection hu with hu; exact hu ▸ .phase .done (.refl u) (by decide)

theorem mxXa_reach {c : Config} (hc : Sizes c) {s t : State} (h : mxXa c s = .next t) : ReachPhase s t := by
  refine ReachPhase.andThen h (fun u hu => startStream_reach hu) fun u hu => ?_
  obtain ⟨-, hu⟩ := need_eq_next hu
  obtain ⟨-, hu⟩ := need_eq_next hu
  refine chunkLoop_reach (fun i x y hxy => ?_) hu
  refine Reach.andThen hxy (fun z hz => xaSector_reach hc hz) fun z hz => ?_
  refine Reach.andThen hz (fun v hv => ite_next_reach hv fun _ => scStamp_reach hc) fun v hv => ?_
  exact Reach.andThen hv (fun w hw => scEdc_reach hw) fun w hw => scEmit_reach hc hw

theorem mxSpu_reach {c : Config} (hc : Sizes c) {s t : State} (h : mxSpu c s = .next t) : ReachPhase s t := by
  refine ReachPhase.andThen h (fun u hu => startStream_reach hu) fun u hu => ?_
  obtain ⟨-, hu⟩ := need_eq_next hu
  obtain ⟨-, hu⟩ := need_eq_next hu
  obtain ⟨-, hu⟩ := need_eq_next hu
  refine ReachPhase.trans ?_ (chunkLoop_reach (fun i x y hxy => spuUnit_reach hc hxy) hu)
  split_ifs
  · exact (Update.emit u _).reach.withPhase
  · exact .refl u

theorem spuiChunk_reach {c : Config} (hc : Sizes c) {ch bi total q : Nat} {s t : State}
    (h : spuiChunk c ch bi total q s = .next t) : Reach s t :=
  Reach.forEach _ (fun _ _ _ _ hxy => Reach.forEach _ (fun _ _ _ _ hxy => spuUnit_reach hc hxy) hxy) h

theorem mxSpui_reach {c : Config} (hc : Sizes c) {s t : State} (h : mxSpui c s = .next t) : ReachPhase s t := by
  refine ReachPhase.andThen h (fun u hu => startStream_reach hu) fun u hu => ?_
  obtain ⟨-, hu⟩ := need_eq_next hu
  obtain ⟨-, hu⟩ := need_eq_next hu
  obtain ⟨-, hu⟩ := need_eq_next hu
  obtain ⟨-, hu⟩ := need_eq_next hu
  dsimp only at hu
  split_ifs at hu
  · obtain ⟨-, hu⟩ := need_eq_next hu
    exact (Update.emit u _).reach.withPhase.trans (chunkLoop_reach (fun _ _ _ => spuiChunk_reach hc) hu)
  · exact chunkLoop_reach (fun _ _ _ => spuiChunk_reach hc) hu

theorem strGroup_reach {c : Config} (hc : Sizes c) {format : Format} {ch frames g : Nat} {s t : State}
    (h : strGroup c format ch frames g s = .next t) : Reach s t :=
  Reach.andThen h (fun _ hz => vdFrame_reach hc hz) fun _ hz =>
    Reach.forEach _ (fun _ _ _ _ hxy => strSector_reach hc hxy) hz

theorem mxStr_reach {c : Config} (hc : Sizes c) {s t : State} (h : mxStr c s = .next t) : ReachPhase s t := by
  refine ReachPhase.andThen h (fun u hu => startStream_reach hu) fun u hu => ?_
  obtain ⟨-, hu⟩ := need_eq_next hu
  obtain ⟨-, hu⟩ := need_eq_next hu
  obtain ⟨-, -, hu⟩ := needSize_eq_next hu
  exact chunkLoop_reach (fun _ _ _ => strGroup_reach hc) hu

theorem mxIso2raw_reach {c : Config} (hc : Sizes c) {s t : State} (h : mxIso2raw c s = .next t) : ReachPhase s t := by
  unfold mxIso2raw needInit at h
  split_ifs at h
  · exact (Faulted.of_raise h).reach.withPhase
  · exact (ReachPhase.phase .encoding (.refl s) (by decide)).trans (chunkLoop_reach (fun _ _ _ => rawSector_reach hc) h)
  · exact (Faulted.of_raise h).reach.withPhase

/-! ## Every command -/

theorem sysValidate_reach {c : Config} {s t : State} (h : sysValidate c s = .next t) : Reach s t := by
  obtain ⟨o, h⟩ := cfgValid_eq_next h
  cases o with
  | some k => exact (Faulted.of_raise h).reach
  | none => injection h with h; exact h ▸ .refl s

theorem unlessFaulted_reach {s t : State} {r : Result} (h : unlessFaulted s r = .next t)
    (hr : r = .next t → Reach s t) : Reach s t := by
  rcases unlessFaulted_eq_next h with ⟨-, rfl⟩ | ⟨-, h⟩
  · exact .refl _
  · exact hr h

theorem unlessFaulted_reachPhase {s t : State} {r : Result} (h : unlessFaulted s r = .next t)
    (hr : r = .next t → ReachPhase s t) : ReachPhase s t := by
  rcases unlessFaulted_eq_next h with ⟨-, rfl⟩ | ⟨-, h⟩
  · exact .refl _
  · exact hr h

/-- A unit command is a chain of updates without a change of phase but a fault (R281). -/
theorem exec_reach {i : Instr} {s t : State} (hi : i.mx = false) (hr : i ≠ .sysReset) (h : exec i s = .next t) :
    Reach s t := by
  cases i with
  | bwWrite => exact unlessFaulted_reach h (bwWrite_reach hw_sizes)
  | bwFlush => exact unlessFaulted_reach h (bwFlush_reach hw_sizes)
  | adReset => exact unlessFaulted_reach h adReset_reach
  | adMinshift => exact unlessFaulted_reach h (adMinshift_reach hw_sizes)
  | adTrial => exact unlessFaulted_reach h (adTrial_reach hw_sizes)
  | adEncode => exact unlessFaulted_reach h (adEncode_reach hw_sizes)
  | vdBegin => exact unlessFaulted_reach h (vdBegin_reach hw_sizes)
  | vdCsc => exact unlessFaulted_reach h vdCsc_reach
  | vdDct => exact unlessFaulted_reach h vdDct_reach
  | vdQuant => exact unlessFaulted_reach h vdQuant_reach
  | vdRate => exact unlessFaulted_reach h vdRate_reach
  | vdPack => exact unlessFaulted_reach h (vdPack_reach hw_sizes)
  | vdEnd => exact unlessFaulted_reach h (vdEnd_reach hw_sizes)
  | vdDemux => exact unlessFaulted_reach h (vdDemux_reach hw_sizes)
  | vdFrame => exact unlessFaulted_reach h (vdFrame_reach hw_sizes)
  | scTables => exact unlessFaulted_reach h scTables_reach
  | scInit => exact unlessFaulted_reach h scInit_reach
  | scStamp => exact unlessFaulted_reach h (scStamp_reach hw_sizes)
  | scEdc => exact unlessFaulted_reach h scEdc_reach
  | scPq => exact unlessFaulted_reach h scPq_reach
  | scEmit => exact unlessFaulted_reach h (scEmit_reach hw_sizes)
  | sysValidate => exact unlessFaulted_reach h sysValidate_reach
  | mxXa => cases hi
  | mxSpu => cases hi
  | mxSpui => cases hi
  | mxStr => cases hi
  | mxIso2raw => cases hi
  | sysReset => exact absurd rfl hr

/-- Every command but SYS.RESET is a chain of updates and changes of phase. -/
theorem exec_reachPhase {i : Instr} {s t : State} (hi : i ≠ .sysReset) (h : exec i s = .next t) : ReachPhase s t := by
  cases i with
  | mxXa => exact unlessFaulted_reachPhase h (mxXa_reach hw_sizes)
  | mxSpu => exact unlessFaulted_reachPhase h (mxSpu_reach hw_sizes)
  | mxSpui => exact unlessFaulted_reachPhase h (mxSpui_reach hw_sizes)
  | mxStr => exact unlessFaulted_reachPhase h (mxStr_reach hw_sizes)
  | mxIso2raw => exact unlessFaulted_reachPhase h (mxIso2raw_reach hw_sizes)
  | sysReset => exact absurd rfl hi
  | _ => exact (exec_reach rfl hi h).withPhase

end Sys2Proof.Machine
end

