-- ==== Sys2Proof/Laws/Step.lean ====
section
/-! SUPPORT. What a step can do, and how a property of the state is carried over one: by the updates of every command,
and by the host's writes. -/

namespace Sys2Proof.Machine

/-- Everything a step can do: nothing, or one action of the host. -/
theorem step_cases {s t : State} (h : step s = .next t) :
    (s.moves = [] ∧ t = s) ∨ ∃ m rest, s.moves = m :: rest ∧ hostAct m { s with moves := rest } = .next t := by
  unfold step State.fetch at h
  cases hm : s.moves with
  | nil => simp [hm] at h; exact .inl ⟨rfl, h.symm⟩
  | cons m rest => simp only [hm] at h; exact .inr ⟨m, rest, rfl, h⟩

/-- Everything a command can do: its meaning, nothing, or the fault IllegalCommand. -/
theorem runCommand_cases {cmd : Command} {s t : State} (h : runCommand cmd s = .next t) :
    (∃ i, exec i s = .next t) ∨ t = s ∨ Faulted s t := by
  unfold runCommand at h
  split at h
  · exact .inl ⟨_, h⟩
  · rcases unlessFaulted_eq_next h with ⟨-, rfl⟩ | ⟨-, h⟩
    · exact .inr (.inl rfl)
    · exact .inr (.inr (.of_raise h))
  · rcases unlessFaulted_eq_next h with ⟨-, rfl⟩ | ⟨-, h⟩
    · exact .inr (.inl rfl)
    · cases h

/-- A host write changes nothing but the settings, the host's buffers and `SEC`. -/
theorem hostAct_frame {m : HostMove} {s t : State} (hm : ∀ c, m ≠ .command c) (h : hostAct m s = .next t) :
    ∃ cfg pcm rgba iso data sec, t = { s with cfg := cfg, pcm := pcm, rgba := rgba, iso := iso, data := data, sec := sec } := by
  cases m with
  | command c => exact absurd rfl (hm c)
  | setting w => simp only [hostAct] at h; split_ifs at h; injection h with h; exact ⟨_, _, _, _, _, _, h.symm⟩
  | pcm w => simp only [hostAct] at h; split_ifs at h; injection h with h; exact ⟨_, _, _, _, _, _, h.symm⟩
  | buffer b w => simp only [hostAct] at h; split_ifs at h; injection h with h; cases b <;> exact ⟨_, _, _, _, _, _, h.symm⟩
  | store b a w => simp only [hostAct] at h; split_ifs at h; injection h with h; cases b <;> exact ⟨_, _, _, _, _, _, h.symm⟩
  | storeSec a w => simp only [hostAct] at h; split_ifs at h; injection h with h; exact ⟨_, _, _, _, _, _, h.symm⟩

/-- A property that every command, every fault and every host write keep is kept by every step. -/
theorem step_keeps {P : State → Prop} (hm : ∀ s r, P s → P { s with moves := r })
    (he : ∀ i s t, P s → exec i s = .next t → P t) (hf : ∀ s c i, P s → P (s.fail c i))
    (hh : ∀ m s t, P s → (∀ c, m ≠ .command c) → hostAct m s = .next t → P t) {s t : State} (hs : P s)
    (h : step s = .next t) : P t := by
  rcases step_cases h with ⟨-, rfl⟩ | ⟨m, rest, -, h⟩
  · exact hs
  · have hs := hm s rest hs
    cases m with
    | command cmd =>
      rcases runCommand_cases h with ⟨i, h⟩ | rfl | ⟨c, i, rfl⟩
      · exact he i _ _ hs h
      · exact hs
      · exact hf _ c i hs
    | _ => exact hh _ _ _ hs (by simp) h

/-- Committing nibbles changes nothing but the buffers they can go to. -/
theorem putNibbles_frame (c : Config) (s : State) (t : Target) (d ds dp : Nat) (nibs : List Nibble) :
    ∃ data sec scr, s.putNibbles c t d ds dp nibs = { s with data := data, sec := sec, scr := scr } := by
  unfold State.putNibbles
  generalize (laneAddrs c d dp).zip nibs = ps
  induction ps generalizing s with
  | nil => exact ⟨_, _, _, rfl⟩
  | cons p ps ih =>
    simp only [List.foldl_cons]
    obtain ⟨a, b, c, h⟩ := ih (State.putNibble t ds s p)
    rw [h]
    cases t <;> exact ⟨_, _, _, rfl⟩

/-- What AD.ENCODE can change. -/
theorem encoded_frame (c : Config) (t : Target) (ch base stride fc d ds dp : Nat) (s : State) :
    ∃ data sec scr chs cand best hdr mse min, s.encoded c t ch base stride fc d ds dp =
      { s with data := data, sec := sec, scr := scr, ch := chs, cand := cand, best := best, adHdr := hdr,
               adMse := mse, adMin := min } := by
  unfold State.encoded
  obtain ⟨a, b, e, h⟩ := putNibbles_frame c s t d ds dp
    (candOf c (s.channel ch) (s.samples c base stride) (searchBest c (s.channel ch) (s.samples c base stride) fc).f
      (searchBest c (s.channel ch) (s.samples c base stride) fc).r).nib
  rw [h]
  exact ⟨_, _, _, _, _, _, _, _, _, rfl⟩

/-- A property kept by every update, change of phase and reset is kept by every command. -/
theorem exec_keeps {P : State → Prop} (hu : ∀ s t, P s → Update s t → P t)
    (hp : ∀ s p, P s → p ≠ Phase.faulted → P (s.setPhase p)) (hr : ∀ s, P s → P (s.resetKeepingHost Config.hw))
    {i : Instr} {s t : State} (hs : P s) (h : exec i s = .next t) : P t := by
  by_cases hi : i = .sysReset
  · subst hi; injection h with h; exact h ▸ hr s hs
  · exact (exec_reachPhase hi h).keeps hu hp hs

/-- A register of `w` bits never holds more than its width. -/
theorem fitted_lt {w : Nat} (free : Nat → BitVec w) (v : Nat) : fitted free v < 2 ^ w := by
  unfold fitted
  split
  · assumption
  · exact (free v).isLt

/-- A value that fits is stored as it is. -/
@[simp] theorem fitted_of_lt {w : Nat} (free : Nat → BitVec w) {v : Nat} (h : v < 2 ^ w) : fitted free v = v := if_pos h

/-- R40: over every step the fields of `CFG` to which the rule gives a width keep within it. -/
theorem step_keeps_cfgInv {s t : State} (hs : s.cfgInv) (h : step s = .next t) : t.cfgInv := by
  refine step_keeps (P := State.cfgInv) (fun _ _ h => h) (fun i s t hs h => ?_) (fun _ _ _ h => h)
    (fun m s t hs hm h => ?_) hs h
  · refine exec_keeps (fun s t hs hu => ?_) (fun _ _ h _ => h) (fun _ _ => ?_) hs h
    · cases hu with
      | encode c hc t ch base stride fc dbase ds dp =>
        obtain ⟨_, _, _, _, _, _, _, _, _, h⟩ := encoded_frame c t ch base stride fc dbase ds dp s
        exact h ▸ hs
      | _ => exact hs
    · exact ⟨(by decide : 0 < 2 ^ 8), (by decide : 0 < 2 ^ 8), (by decide : 0 < 2 ^ 1)⟩
  · cases m with
    | command c => exact absurd rfl (hm c)
    | setting w =>
      simp only [hostAct] at h
      split_ifs at h
      injection h with h
      subst h
      cases w <;>
        simp_all only [State.cfgInv, Settings.write, Marked.put, fitted_lt, and_self]
    | pcm w => simp only [hostAct] at h; split_ifs at h; injection h with h; exact h ▸ hs
    | buffer b w => simp only [hostAct] at h; split_ifs at h; injection h with h; cases b <;> exact h ▸ hs
    | store b a w => simp only [hostAct] at h; split_ifs at h; injection h with h; cases b <;> exact h ▸ hs
    | storeSec a w => simp only [hostAct] at h; split_ifs at h; injection h with h; exact h ▸ hs

end Sys2Proof.Machine
end

