-- ==== Sys2Proof/Tests/Slice0.lean ====
section
/-! SUPPORT. The smoke test of WellFormed, the decoding of each command word of spec/30_encoding.md R91, at most two
small tests per command from spec/95_test_vectors.md, and a witness for the hypotheses of each obligation. -/

namespace Sys2Proof.Tests

open Sys2Proof Sys2Proof.Machine

-- One theorem at a time: a thread for each would take more memory than a check has.
set_option Elab.async false

/-! ## WellFormed: each check refuses an ill-formed term -/

theorem test_wf_bw_width : (Instr.bwWrite 17 0).wellFormed = false := by decide
theorem test_wf_bw_range : (Instr.bwWrite 4 16).wellFormed = false := by decide
theorem test_wf_minshift_stride : (Instr.adMinshift 0 0 0 1).wellFormed = false := by decide
theorem test_wf_minshift_filter : (Instr.adMinshift 0 0 1 5).wellFormed = false := by decide
theorem test_wf_trial_stride : (Instr.adTrial 0 0 0 1 2).wellFormed = false := by decide
theorem test_wf_trial_filter : (Instr.adTrial 0 0 1 5 2).wellFormed = false := by decide
theorem test_wf_trial_shift : (Instr.adTrial 0 0 1 4 13).wellFormed = false := by decide
theorem test_wf_encode_stride : (Instr.adEncode 0 0 0 5 0 0 1).wellFormed = false := by decide
theorem test_wf_encode_no_filter : (Instr.adEncode 0 0 1 0 0 0 1).wellFormed = false := by decide
theorem test_wf_encode_six_filters : (Instr.adEncode 0 0 1 6 0 0 1).wellFormed = false := by decide
theorem test_wf_encode_shift : (Instr.adEncode 0 0 1 5 0 2 1).wellFormed = false := by decide
theorem test_wf_encode_pitch : (Instr.adEncode 0 0 1 5 0 4 0).wellFormed = false := by decide
theorem test_wf_dct : (Instr.vdDct 6).wellFormed = false := by decide
theorem test_wf_quant : (Instr.vdQuant 6 0).wellFormed = false := by decide
theorem test_wf_pack : (Instr.vdPack 0 6).wellFormed = false := by decide
theorem test_wf_init_submode : (Instr.scInit 256 0).wellFormed = false := by decide
theorem test_wf_init_coding : (Instr.scInit 0 256).wellFormed = false := by decide
theorem test_wf_edc : (Instr.scEdc 3).wellFormed = false := by decide
theorem test_wf_emit : (Instr.scEmit 2000).wellFormed = false := by decide

/-! ## Decoding: a word of each command, written from R91 (opcode, then the operands in its order) -/

theorem test_decode_bwWrite : decode ⟨0b00000001, [10, 0x1FF]⟩ = .ok (.bwWrite 10 0x1FF) := by decide
theorem test_decode_bwFlush : decode ⟨0b00000010, []⟩ = .ok .bwFlush := by decide
theorem test_decode_adReset : decode ⟨0b00010000, [1]⟩ = .ok (.adReset 1) := by decide
theorem test_decode_adMinshift : decode ⟨0b00010001, [1, 28, 2, 4]⟩ = .ok (.adMinshift 1 28 2 4) := by decide
theorem test_decode_adTrial : decode ⟨0b00010010, [1, 28, 2, 4, 12]⟩ = .ok (.adTrial 1 28 2 4 12) := by decide
theorem test_decode_adEncode :
    decode ⟨0b00010011, [1, 28, 2, 5, 16, 4, 3]⟩ = .ok (.adEncode 1 28 2 5 16 4 3) := by decide
theorem test_decode_vdBegin : decode ⟨0b00100000, []⟩ = .ok .vdBegin := by decide
theorem test_decode_vdCsc : decode ⟨0b00100001, [7, 2, 3]⟩ = .ok (.vdCsc 7 2 3) := by decide
theorem test_decode_vdDct : decode ⟨0b00100010, [5]⟩ = .ok (.vdDct 5) := by decide
theorem test_decode_vdQuant : decode ⟨0b00100011, [5, 9]⟩ = .ok (.vdQuant 5 9) := by decide
theorem test_decode_vdRate : decode ⟨0b00100100, []⟩ = .ok .vdRate := by decide
theorem test_decode_vdPack : decode ⟨0b00100101, [9, 5]⟩ = .ok (.vdPack 9 5) := by decide
theorem test_decode_vdEnd : decode ⟨0b00100110, []⟩ = .ok .vdEnd := by decide
theorem test_decode_vdDemux : decode ⟨0b00100111, []⟩ = .ok .vdDemux := by decide
theorem test_decode_vdFrame : decode ⟨0b00101000, [3]⟩ = .ok (.vdFrame 3) := by decide
theorem test_decode_scTables : decode ⟨0b00110000, []⟩ = .ok .scTables := by decide
theorem test_decode_scInit : decode ⟨0b00110001, [0x64, 1]⟩ = .ok (.scInit 0x64 1) := by decide
theorem test_decode_scStamp : decode ⟨0b00110010, [1571]⟩ = .ok (.scStamp 1571) := by decide
theorem test_decode_scEdc : decode ⟨0b00110011, [2]⟩ = .ok (.scEdc 2) := by decide
theorem test_decode_scPq : decode ⟨0b00110100, []⟩ = .ok .scPq := by decide
theorem test_decode_scEmit : decode ⟨0b00110101, [2336]⟩ = .ok (.scEmit 2336) := by decide
theorem test_decode_mxXa : decode ⟨0b01000000, []⟩ = .ok .mxXa := by decide
theorem test_decode_mxSpu : decode ⟨0b01000001, []⟩ = .ok .mxSpu := by decide
theorem test_decode_mxSpui : decode ⟨0b01000010, []⟩ = .ok .mxSpui := by decide
theorem test_decode_mxStr : decode ⟨0b01000011, []⟩ = .ok .mxStr := by decide
theorem test_decode_mxIso2raw : decode ⟨0b01000100, []⟩ = .ok .mxIso2raw := by decide
theorem test_decode_sysReset : decode ⟨0b11110000, []⟩ = .ok .sysReset := by decide
theorem test_decode_sysValidate : decode ⟨0b11110001, []⟩ = .ok .sysValidate := by decide
theorem test_decode_illegal : decode ⟨0x03, [1, 2]⟩ = .error (.illegalOpcode 3) := by decide
theorem test_decode_operand_record : decode ⟨0x01, [10]⟩ = .error (.operandCount 1 1) := by decide
theorem test_decode_table_word : decodeTableWord 8 0x13 = some (.adEncode 0 0 0 0 0 0 0) := by decide
theorem test_decode_table_illegal : decodeTableWord 8 0x03 = none := by decide

/-! ## One step, from spec/95_test_vectors.md, under its configuration -/

/-- The configuration of the vectors. -/
abbrev vectors : Config := Config.testInstance

/-- The state the vectors start from. -/
def start : State := State.resetOf vectors

/-- Look at the next state. -/
def look {α : Type} (r : Result) (f : State → α) : Option α :=
  match r with
  | .next s => some (f s)
  | .fault _ => none
  | .refused _ => none

/-- Written settings: bits 4, file 1, channel 0. -/
def settings (f : Format) (hz ch interleave alignment loop w h : Nat) : Settings where
  format := .put f
  frequency := .put hz
  channels := .put ch
  bits := .put 4
  file := .put 1
  channel := .put 0
  interleave := .put interleave
  alignment := .put alignment
  loop := .put loop
  width := .put w
  height := .put h

/-- A vector's start with one channel, 28 samples and 28 bytes of `DATA`. -/
def audio (samples : List Sample) : State :=
  { start with cfg := settings .spu 44100 1 0 0 0 0 0, pcm := samples, data := ⟨28, []⟩ }

/-- The samples of V-AD2. -/
def ramp : List Sample := (List.range 28).map fun i => BitVec.ofNat 16 (100 * i)

/-- V-BW1, first command. -/
theorem test_bwWrite_places : look (bwWrite vectors 10 0x1FF start) (fun s => (s.bwAcc, s.bwLeft, s.out)) =
    some (0x7FC0, 6, []) := by decide +kernel
/-- V-BW2, second command: the field is split 6 and 4. -/
theorem test_bwWrite_straddles :
    look (bwWrite vectors 10 0 { start with bwAcc := 0xFFC0, bwLeft := 6 }) (fun s => (s.bwAcc, s.bwLeft, s.out)) =
      some (0x0000, 12, [0xC0, 0xFF]) := by decide +kernel
/-- V-BW5. -/
theorem test_bwFlush_pads : look (bwFlush vectors { start with bwAcc := 0x8000, bwLeft := 15 })
    (fun s => (s.bwAcc, s.bwLeft, s.out)) = some (0, 16, [0x00, 0x80]) := by decide +kernel
/-- V-BW4. -/
theorem test_bwFlush_empty : look (bwFlush vectors start) (fun s => (s.bwLeft, s.out)) = some (16, []) := by
  decide +kernel

/-- V-AD12: the channel number is operand 0. -/
theorem test_adReset_fault : look (adReset 1 (audio [])) (fun s => (s.fault, s.fcause, s.finfo)) =
    some (true, .put 7, .put 0) := by decide +kernel
/-- V-AD11. -/
theorem test_adMinshift_ramp : look (adMinshift vectors 0 0 1 0 (audio ramp)) (fun s => s.adMin) = some (.put 9) := by
  decide +kernel
/-- V-AD1: from (1234, -999) the first residual decides. -/
theorem test_adMinshift_history :
    minShiftOf vectors ⟨0, 1234, BitVec.ofInt 16 (-999)⟩ (List.replicate 28 0) 1 = 8 := by decide +kernel
/-- V-AD11. -/
theorem test_adTrial_ramp : look (adTrial vectors 0 0 1 4 4 (audio ramp))
    (fun s => (s.cand.val.mse.toNat, s.cand.val.prev1.toInt, (s.channel 0).prev1)) = some (399, 2703, 0) := by
  decide +kernel
/-- V-AD8: the rounding quotient. -/
theorem test_adTrial_impulse : look (adTrial vectors 0 0 1 0 8 (audio [1000]))
    (fun s => (s.cand.val.nib.take 2, s.cand.val.mse.toNat)) = some ([4, 0], 576) := by decide +kernel
/-- V-AD2. -/
theorem test_adEncode_ramp : look (adEncode vectors .data 0 0 1 5 0 0 1 (audio ramp))
    (fun s => (s.adHdr.val, s.adMse.val.toNat, (s.channel 0).prev1.toInt, (s.channel 0).prev2.toInt,
      bytesOf s.dataByte 0 6)) = some (0x44, 399, 2703, 2606, [0, 6, 1, 1, 0, 2]) := by decide +kernel
/-- V-AD6: the widest shift. -/
theorem test_adEncode_full_scale :
    look (adEncode vectors .data 0 0 1 5 0 0 1 (audio (List.replicate 28 (BitVec.ofInt 16 (-32768)))))
      (fun s => (s.adHdr.val, s.adMse.val.toNat, (s.channel 0).prev1.toInt, s.dataByte 27)) =
    some (0x0C, 0, -32768, 8) := by decide +kernel

/-- A vector's start with a 16x16 video. -/
def video : State := { start with cfg := settings .str2 37800 1 0 0 0 16 16 }

/-- V-VD11. -/
theorem test_vdBegin_width : look (vdBegin vectors { start with cfg := settings .str2 37800 1 0 0 0 24 16 })
    (fun s => (s.fcause, s.finfo)) = some (.put 5, .put 24) := by decide +kernel
/-- V-VD8: a red pixel. -/
theorem test_vdCsc_red : (vectors.cscY 255 0 0 - vectors.lumaBias, vectors.cscCr 1020 0 0, vectors.cscCb 1020 0 0) =
    (-207, 510, -171) := by decide +kernel
/-- V-VD8: the first luma element of a frame whose first pixel alone is red. -/
theorem test_vdCsc_order : look (vdCsc vectors 0 0 0
      { video with rgba := ⟨1024, (0, 255) :: Store.indexed 1 (List.replicate 1023 0)⟩ })
    (fun s => (s.mb.val.length, (s.mb.val.getD 2 []).take 2, (s.mb.val.getD 0 []).take 2)) =
      some (6, [-207, -512], [127, 0]) := by decide +kernel
/-- V-VD3, row 0 after the divisions. -/
theorem test_vdDct_ramp :
    (dctBlock vectors ((List.range 64).map fun k => 16 * ((k % 8 : Nat) : Int) - 56)).take 8 =
      [0, -582, 0, -60, 0, -18, 0, -4] := by decide +kernel
/-- V-VD4, column 0 after the divisions. -/
theorem test_vdDct_vertical :
    (List.range 8).map (fun u => (dctBlock vectors
      ((List.range 64).map fun k => 16 * ((k / 8 : Nat) : Int) - 56)).getD (8 * u) 0) =
      [0, -583, 0, -60, 0, -18, 0, -4] := by decide +kernel
/-- V-VD3, the quantised row. -/
theorem test_vdQuant_row : ((quantBlock vectors [0, -582, 0, -60, 0, -18, 0, -4]).map (·.toInt)).take 8 =
    [0, -36, 0, -2, 0, 0, 0, 0] := by decide +kernel
/-- V-VD9: the luma cutoff 2 and the chroma cutoff 3 of iteration 1. -/
theorem test_vdRate_cuts :
    ((cutBlock vectors 0 1 [0, -3, -2, -1, 0, 1, 2, 3, 4, -4]).map (·.toInt)).take 10 =
        [0, -3, 0, 0, 0, 0, 0, 3, 4, -4] ∧
      ((cutBlock vectors 2 1 [0, 3, 4, -4, -3, -2, -1, 0, 1, 2]).map (·.toInt)).take 10 =
        [0, 3, 4, -4, -3, -2, 0, 0, 0, 2] := by decide +kernel
/-- V-VD5. -/
theorem test_vdPack_runs : look (packBlock vectors [0, -36, 0, -2] start)
    (fun s => (s.out, s.bwAcc, s.bwLeft, s.fcWords)) =
      some ([0x01, 0x00, 0xDC, 0x03, 0x4F, 0x04], 0xFA00, 8, 16) := by decide +kernel
/-- V-VD7 (a): run 62. -/
theorem test_vdPack_last : look (packBlock vectors (List.replicate 63 0 ++ [-1]) start)
    (fun s => (s.out, s.bwAcc, s.bwLeft, s.fcWords)) = some ([0x01, 0x00, 0xFF, 0xFB], 0x8000, 14, 16) := by
  decide +kernel
/-- V-VD11: the terminator alone. -/
theorem test_vdEnd_alone : look (vdEnd vectors start) (fun s => (s.out, s.fcWords)) = some ([0xE0, 0x7F], 16) := by
  decide +kernel
/-- R323: the flush of VD.END finds no room, and neither the fields nor the word count stay (log 22). -/
theorem test_vdEnd_overrun : look (vdEnd { vectors with outCap := some 1 } start)
    (fun s => ((s.out, s.bwAcc, s.bwLeft), s.fcWords, s.fcause, s.finfo)) = some (([], 0, 16), 0, .put 4, .put 0) := by
  decide +kernel
/-- P2: the header of chunk 1. -/
theorem test_vdDemux_header : chunkHeader vectors { start with fcWords := 112, out := List.replicate 12 0 } 16 16 1 =
    [0x60, 0x01, 0x01, 0x80, 0x01, 0x00, 0x07, 0x00, 0x01, 0x00, 0x00, 0x00, 0x0C, 0x00, 0x00, 0x00, 0x10, 0x00, 0x10,
      0x00, 0x07, 0x00, 0x00, 0x38, 0x01, 0x00, 0x02, 0x00, 0x00, 0x00, 0x00, 0x00] := by decide +kernel
/-- P2: the packing and the end of VD.FRAME on the black frame's blocks. -/
theorem test_vdFrame_black : look (andThen (packBlocks vectors 16 16 { video with
      fbc := Store.indexed 0 [[0], [0], [-511], [-511], [-511], [-511]] }) (vdEnd vectors)) (fun s => (s.out, s.fcWords)) =
    some ([0x20, 0x00, 0x80, 0x02, 0x06, 0x68, 0x68, 0x80, 0x7F, 0x06, 0x00, 0xE0], 112) := by decide +kernel

/-- V-SC1. -/
theorem test_edc_table : edcLut vectors 1 = 0x90910101 ∧ edcLut vectors 128 = 0xD8018001 ∧
    edcLut vectors 255 = 0x7070FF00 := by decide +kernel
/-- V-SC1. -/
theorem test_gf_tables : let t := gfTables vectors
    t.exp.getD 100 0 = 0x11 ∧ t.log.getD 255 0 = 175 ∧ gmul t 0x53 0xCA = 0x8F ∧ gfProd t 42 0xFF = (0x1C, 0xE3) ∧
      gfProd t 0 1 = (0xAE, 0xAF) := by decide +kernel
/-- V-SC2. -/
theorem test_scInit_subheader : look (scInit 0x64 1 { start with cfg := settings .xa 37800 1 0 0 0 0 0 })
    (fun s => bytesOf s.secByte 0x00F 9) = some [0, 1, 0, 0x64, 1, 1, 0, 0x64, 1] := by decide +kernel
/-- V-SC2. -/
theorem test_scStamp_time : look (scStamp vectors 1571 start) (fun s => bytesOf s.secByte 0x00B 5) =
    some [0x00, 0x00, 0x22, 0x71, 0x02] := by decide +kernel
/-- V-SC2. -/
theorem test_scStamp_limit : look (scStamp vectors 449850 start) (fun s => (s.fcause, s.finfo)) =
    some (.put 6, .put 449850) := by decide +kernel
/-- V-SC3. -/
theorem test_edc_check_string : edc vectors [0x31, 0x32, 0x33, 0x34, 0x35, 0x36, 0x37, 0x38, 0x39] = 0x6EC2EDC4 := by
  decide +kernel
/-- V-SC9. -/
theorem test_scEdc_form : look (scEdc vectors 3 { start with tbuilt := true }) (fun s => (s.fcause, s.finfo)) =
    some (.put 6, .put 3) := by decide +kernel
/-- V-SC6: the P symbols of the one payload byte at 0x018, column 6, row 0, lane 0. -/
theorem test_scPq_column : parityPair (gfTables vectors) (fun a => if a = 0x018 then 1 else 0) (pSymbols 6 0) =
    (0xF5, 0xF4) := by decide +kernel
/-- V-SC6: one of its Q diagonals. -/
theorem test_scPq_diagonal : parityPair (gfTables vectors) (fun a => if a = 0x018 then 1 else 0) (qSymbols 0 0) =
    (0, 0) := by decide +kernel
/-- V-SC9. -/
theorem test_scEmit_size : look (scEmit vectors 2048 start) (fun s => (s.fcause, s.finfo)) = some (.put 6, .put 2048) := by
  decide +kernel

/-- `SCR` written with zero bytes. -/
def scratch : Memory := ⟨28, Store.indexed 0 (List.replicate 28 0)⟩

/-- P1. -/
theorem test_mxSpu_blocks : look (mxSpu vectors
      { audio ((List.range 40).map fun i => BitVec.ofNat 16 (100 * i)) with scr := scratch })
    (fun s => (s.sink.take 4, s.sink.drop 16, s.phase)) = some ([0x44, 0x00, 0x60, 0x11],
      [0x19, 0x01, 0x01, 0x01, 0x01, 0x11, 0x10, 0x10, 0x09, 0x00, 0x00, 0x00, 0x00, 0x00, 0x00, 0x00], .done) := by
  decide +kernel
/-- V-MX4. -/
theorem test_vag_header : (vagHeader vectors true 32 64 44100 2).take 34 =
    [0x56, 0x41, 0x47, 0x69, 0x00, 0x00, 0x00, 0x20, 0x20, 0x00, 0x00, 0x00, 0x00, 0x00, 0x00, 0x40, 0x00, 0x00, 0xAC,
      0x44, 0, 0, 0, 0, 0, 0, 0, 0, 0, 0, 0x02, 0x00, 0, 0] := by decide +kernel
/-- V-MX1, for one block and for the middle one of three. -/
theorem test_spu_flags : spuFlags true true true = 0x07 ∧ spuFlags true true false = 0x01 ∧
    spuFlags true false true = 0x04 ∧ spuFlags false false true = 0x00 ∧ spuFlags false true true = 0x03 := by decide
/-- V-MX2: the left channel's first block, of one chunk of one block. -/
theorem test_mxSpui_block : look (mxSpui vectors { start with
      cfg := settings .spui 44100 1 16 0 1 0 0, pcm := ramp, scr := scratch }) (fun s => s.sink.take 6) =
    some [0x44, 0x07, 0x60, 0x11, 0x20, 0x21] := by decide +kernel
/-- V-MX3: three channels are no XA stream. -/
theorem test_mxXa_invalid : look (mxXa vectors { start with cfg := settings .xa 37800 3 0 0 0 0 0 })
    (fun s => (s.fcause, s.finfo, s.sink)) = some (.put 1, .put 3, []) := by decide +kernel
/-- V-MX6: where the header bytes of units 0, 3, 4 and 7 stand. -/
theorem test_xa_headers : headerAddrs 0 0 = (0, 4) ∧ headerAddrs 0 3 = (3, 7) ∧ headerAddrs 0 4 = (8, 12) ∧
    headerAddrs 0 7 = (11, 15) := by decide
/-- R109: stereo at 18900 Hz, mono at 37800 Hz. -/
theorem test_coding : codingOf vectors 2 18900 4 = 0x05 ∧ codingOf vectors 1 37800 4 = 0x00 := by decide
/-- R242: the submode bytes of P4. -/
theorem test_submode : submodeOf vectors .audio true = 0xE5 ∧ submodeOf vectors .video false = 0x48 ∧
    submodeOf vectors .data false = 0x08 := by decide
/-- V-MX3: a second stream command. -/
theorem test_mxStr_phase : look (mxStr vectors { start with phase := .done }) (fun s => (s.fcause, s.finfo)) =
    some (.put 9, .put 3) := by decide +kernel
/-- R324: no frames, under a format without a size. -/
theorem test_mxStr_no_frames : look (mxStr vectors { start with cfg := settings .spu 44100 1 0 0 0 0 0 }) (fun s => (s.fault, s.sink, s.phase)) =
    some (false, [], .done) := by decide +kernel
/-- R289: no blocks, so no loop flag is read, under a format that does not have one. -/
theorem test_mxSpu_no_blocks : look (mxSpu vectors { start with
      cfg := { settings .xa 37800 1 0 0 0 0 0 with loop := ⟨0, false⟩ } }) (fun s => (s.fault, s.sink, s.phase)) =
    some (false, [], .done) := by decide +kernel
/-- R40: 8 bits of file number; a value beyond leaves one of 8 bits. -/
theorem test_setting_width : look (hostAct (.setting (.file 255)) State.reset) (fun s => s.cfg.file) =
    some (.put 255) ∧ look (hostAct (.setting (.file 256)) State.reset) (fun s => s.cfg.file) =
      some (.put (Config.freeFileNumber 256).toNat) := ⟨rfl, rfl⟩
/-- R297: an image that is not whole sectors. -/
theorem test_mxIso2raw_length : look (mxIso2raw vectors { start with iso := ⟨2049, []⟩ })
    (fun s => (s.fcause, s.finfo)) = some (.put 6, .put 2049) := by decide +kernel
/-- R352: an XA stream does not read the loop flag, nor an SPU stream the file and channel numbers. -/
theorem test_sysValidate_unread : look (sysValidate vectors { start with
      cfg := { settings .xa 37800 1 0 0 0 0 0 with loop := ⟨2, false⟩ } }) (fun s => s.fault) = some false ∧
    look (sysValidate vectors { start with cfg := { settings .spu 37800 1 0 0 1 0 0 with
      file := ⟨256, false⟩, channel := ⟨256, false⟩ } }) (fun s => s.fault) = some false := by decide +kernel
/-- P6: SYS.RESET while a fault stands. -/
theorem test_sysReset_recovers : look (execSysReset { State.reset with fault := true, phase := .faulted, bwLeft := 6 })
    (fun s => (s.fault, s.phase, s.bwLeft)) = some (false, .init, 16) := by decide +kernel
/-- R322, clause 5. -/
theorem test_sysValidate_clause : look (sysValidate vectors { start with cfg := settings .vagi 44100 2 32 0 0 0 0 })
    (fun s => (s.fcause, s.finfo)) = some (.put 1, .put 5) := by decide +kernel
/-- P6: the illegal opcode. -/
theorem test_illegal_opcode : look (step (State.reset.issue ⟨0x03, []⟩)) (fun s => (s.fault, s.fcause, s.finfo)) =
    some (true, .put 8, .put 3) := by decide +kernel

/-! ## Witnesses: for each obligation with hypotheses, states and operands that meet them, each clause at a boundary -/

/-- The state after reset with settings written and the tables built. -/
def written (g : Settings) : State := { State.reset with cfg := g, tbuilt := true }

/-- The settings of a mono `spu` stream. -/
def mono : Settings := settings .spu 44100 1 0 0 0 0 0

/-- The settings of a 16x16 video. -/
def small : Settings := settings .str2 37800 1 0 0 1 16 16

/-- A state with 28 bytes of `DATA` and one channel. -/
def block : State := { written mono with data := ⟨28, []⟩ }

/-- A block in which a fault stands. -/
def faulted (m : List HostMove) : State :=
  { State.reset with fault := true, fcause := .put 8, finfo := .put 3, phase := .faulted, moves := m }

/-- A state with one byte of `SEC` written. -/
def sector : State := { written mono with sec := ⟨2352, [(0x018, 1)]⟩ }

theorem witness_StepRunsTheDecodedCommand :
    (State.reset.issue (encode .vdBegin)).moves = .command (encode .vdBegin) :: [] ∧
      decode (encode .vdBegin) = .ok .vdBegin ∧ decodeTableWord 8 0xF1 = some .sysValidate := by decide

theorem witness_IllegalOpcodeFaults : (State.reset.issue ⟨0x03, []⟩).fault = false ∧
    (State.reset.issue ⟨0x03, []⟩).moves = .command ⟨0x03, []⟩ :: [] ∧
    (∀ op ∈ [0x00, 0x03, 0x14, 0x45, 0xF2, 0xFF], op ∉ [0x01, 0x02, 0x10, 0x11, 0x12, 0x13, 0x20, 0x21, 0x22, 0x23,
      0x24, 0x25, 0x26, 0x27, 0x28, 0x30, 0x31, 0x32, 0x33, 0x34, 0x35, 0x40, 0x41, 0x42, 0x43, 0x44, 0xF0, 0xF1]) := by
  decide

theorem witness_FaultedBlockRefusesCommands : (faulted [.command ⟨0x03, []⟩]).fault = true ∧
    (faulted [.command ⟨0x03, []⟩]).moves = .command ⟨0x03, []⟩ :: [] ∧ decode ⟨0x03, []⟩ ≠ .ok .sysReset := by decide

theorem witness_SimpleFaultsArePrecise : (Instr.bwWrite 17 0).simple = true ∧ State.reset.fault = false ∧
    ∃ t, exec (.bwWrite 17 0) State.reset = .next t ∧ t.fault = true := ⟨rfl, rfl, _, rfl, rfl⟩

theorem witness_OnlyResetClearsFault : (faulted [.command (encode .sysReset)]).fault = true ∧
    ∃ t, step (faulted [.command (encode .sysReset)]) = .next t ∧ t.fault = false := ⟨rfl, _, rfl, rfl⟩

theorem settings_written (f : Format) (hz ch interleave alignment loop w h : Nat) :
    (settings f hz ch interleave alignment loop w h).Written :=
  ⟨rfl, rfl, rfl, rfl, fun _ => ⟨rfl, rfl⟩, fun _ => rfl, fun _ => rfl, fun _ => rfl, fun _ => ⟨rfl, rfl⟩⟩

/-- A valid `CFG`, with the smallest interleave and alignment. -/
theorem witness_ValidateChecksEveryClause_valid : (settings .vagi 1 1 16 1 1 0 0).Written ∧
    (settings .vagi 1 1 16 1 1 0 0).Valid := by
  refine ⟨settings_written .., fun n h1 h2 => ?_⟩
  interval_cases n <;> simp [settings, Settings.Clause, Marked.put]

/-- For each clause a `CFG` that fails it and no clause before it. -/
theorem witness_ValidateChecksEveryClause_failing :
    let first := fun (g : Settings) (k : Nat) => g.Written ∧ ¬ g.Clause k ∧ ∀ n, 1 ≤ n → n < k → g.Clause n
    first (settings (.other 9) 44100 1 0 0 0 0 0) 1 ∧ first { mono with bits := .put 8 } 2 ∧
      first (settings .spu 44100 2 0 0 0 0 0) 3 ∧ first (settings .xa 44100 1 0 0 0 0 0) 4 ∧
      first (settings .spui 44100 1 24 0 0 0 0) 5 ∧ first (settings .str2 37800 1 0 0 0 24 16) 6 ∧
      first (settings .spu 44100 1 0 0 2 0 0) 7 := by
  have bits8 : Settings.Written { mono with bits := .put 8 } :=
    ⟨rfl, rfl, rfl, rfl, fun _ => ⟨rfl, rfl⟩, fun _ => rfl, fun _ => rfl, fun _ => rfl, fun _ => ⟨rfl, rfl⟩⟩
  refine ⟨⟨settings_written .., ?_⟩, ⟨bits8, ?_⟩, ⟨settings_written .., ?_⟩, ⟨settings_written .., ?_⟩,
    ⟨settings_written .., ?_⟩, ⟨settings_written .., ?_⟩, ⟨settings_written .., ?_⟩⟩ <;>
    refine ⟨by simp [settings, Settings.Clause, Marked.put], fun n h1 h2 => ?_⟩ <;>
    interval_cases n <;> simp [settings, mono, Settings.Clause, Marked.put]

/-- `CFG` in and out of INIT, and the last value within each width; the phases with and without a stream under way. -/
theorem witness_HostWritesOnlyWhereAllowed_settings :
    State.reset.phase = .init ∧ ({ State.reset with phase := .done } : State).phase ≠ .init ∧
      (∀ p ∈ [Phase.init, .done, .faulted], ¬ (p = .encoding ∨ p = .finalize)) ∧
      (∀ p ∈ [Phase.encoding, .finalize], p = .encoding ∨ p = .finalize) ∧ 255 ≤ 255 ∧ ¬ 256 ≤ 255 ∧ 1 ≤ 1 ∧ ¬ 2 ≤ 1 :=
  ⟨rfl, nofun, by decide, by decide, by decide⟩

/-- The last byte of each buffer, the two ends of the bytes of `SEC`, and the addresses beyond. -/
theorem witness_HostWritesOnlyWhereAllowed_bytes :
    let s : State := { State.reset with rgba := ⟨4, []⟩, iso := ⟨2048, []⟩, data := ⟨28, []⟩ }
    (∀ p ∈ [(3, s.rgba.size), (2047, s.iso.size), (27, s.data.size)], p.1 < p.2 ∧ p.2 ≤ p.1 + 1) ∧
      (∀ a ∈ [0x010, 0x92B], 0x010 ≤ a ∧ a ≤ 0x92B) ∧ ∀ a ∈ [0x00F, 0x92C], a < 0x010 ∨ 0x92B < a :=
  ⟨by decide, by decide, by decide⟩

/-- After reset nothing is written: the commands that read one setting, and the first field that `cfg_valid` reads. -/
theorem witness_UnwrittenStateIsRefused_reset :
    let s := State.reset
    s.fault = false ∧ s.phase = .init ∧ s.cfg.channels.written = false ∧ s.cfg.width.written = false ∧
      s.cfg.file.written = false ∧ s.out.length ≤ 14112 ∧ 5 ≤ 5 ∧ 0xFF ≤ 0xFF ∧
      s.cfg.checked = [] ++ (.cfgFormat, true) :: s.cfg.checked.tail ∧ s.cfg.has .cfgFormat = false :=
  ⟨rfl, rfl, rfl, rfl, rfl, by decide, by decide, by decide, rfl, rfl⟩

/-- With the size written, the blocks; with no byte of `SEC` written, the sector commands. -/
theorem witness_UnwrittenStateIsRefused_blocks : (written small).fault = false ∧ 5 ≤ 5 ∧
    (written small).mb.written = false ∧ (written small).cfg.width.written = true ∧
    (written small).cfg.height.written = true ∧ 0 < (16 / 16) * (16 / 16) ∧
    Store.lookup (written small).fbc (6 * 0 + 5) = none ∧ 5 < 6 * ((16 / 16) * (16 / 16)) ∧
    Store.lookup (written small).fb 5 = none ∧ (∀ a, (written small).sec.read? a = none) ∧
    (written small).tbuilt = true :=
  ⟨rfl, by decide, rfl, rfl, rfl, by decide, rfl, by decide, rfl, fun _ => rfl, rfl⟩

/-- The second of two fields left unwritten: the height, the channel number, and the alignment, the last field of clause
5. -/
theorem witness_UnwrittenStateIsRefused_second :
    let noHeight : Settings := { small with height := ⟨0, false⟩ }
    let noChannel : State := { written { mono with channel := ⟨0, false⟩ } with iso := ⟨2048, []⟩ }
    let noAlignment : Settings := { settings .vagi 1 1 16 0 0 0 0 with alignment := ⟨0, false⟩ }
    (noHeight.width.written = true ∧ 0 < noHeight.width.val ∧ noHeight.width.val % 16 = 0 ∧
      noHeight.height.written = false) ∧
    (noChannel.fault = false ∧ noChannel.phase = .init ∧ noChannel.iso.size % 2048 = 0 ∧ 0 < noChannel.iso.size ∧
      noChannel.cfg.file.written = true ∧ noChannel.cfg.channel.written = false) ∧
    noAlignment.checked = noAlignment.checked.take 5 ++ (.cfgAlignment, true) :: noAlignment.checked.drop 6 ∧
    (∀ p ∈ noAlignment.checked.take 5,
      (p.2 = true → noAlignment.has p.1 = true) ∧ (noAlignment.has p.1 = true → noAlignment.FieldOk p.1)) ∧
    noAlignment.has .cfgAlignment = false := by
  refine ⟨by decide, by decide, rfl, fun p hp => ?_, rfl⟩
  simp [settings, Settings.checked, Marked.put] at hp
  rcases hp with rfl | rfl | rfl | rfl | rfl <;>
    simp [settings, Settings.FieldOk, Settings.has, Settings.Clause, Marked.put]

/-- Settings of a mono stream in which the interleaved form's fields and the height are unwritten, and the file number,
the channel number and the width are given. -/
def foreign (file channel width : Marked Nat) : Settings :=
  { mono with file := file, channel := channel, interleave := ⟨0, false⟩, alignment := ⟨0, false⟩, width := width,
              height := ⟨0, false⟩ }

/-- R352: such a stream can start also with no file and no channel number, which its format does not read. -/
theorem foreign_ready (file channel width : Marked Nat) (hf : file.written = true → file.val ≤ 255)
    (hc : channel.written = true → channel.val ≤ 255) (pcm : List Sample) :
    State.StreamReady { written (foreign file channel width) with pcm := pcm } := by
  refine ⟨rfl, rfl, ⟨rfl, rfl, rfl, rfl, (fun h => nomatch h), fun _ => rfl, fun h => ?_, (fun h => nomatch h),
    fun h => ?_⟩, fun n h1 h2 => ?_⟩
  · simp [written, foreign, mono, settings, Marked.put, Format.interleaved] at h
  · simp [written, foreign, mono, settings, Marked.put, Format.video] at h
  · interval_cases n <;> simp [written, foreign, mono, settings, Settings.Clause, Marked.put]
    exact ⟨hf, hc⟩

/-- Settings of an XA stream, which does not read the loop flag, without one. -/
def noLoop : Settings := { settings .xa 37800 1 16 0 0 0 0 with loop := ⟨0, false⟩ }

/-- A stream can start under a format that is not the command's own: the fields of the command left unwritten. -/
theorem witness_UnwrittenStateIsRefused_foreign :
    let g := foreign ⟨0, false⟩ ⟨0, false⟩ ⟨0, false⟩
    let second := foreign (.put 255) ⟨0, false⟩ (.put 16)
    (State.StreamReady { written g with pcm := [7] } ∧ g.format.val.sectored = false ∧ 0 < [7].length / g.channels.val ∧
      g.channels.val ≤ 4032 ∧ g.file.written = false) ∧
    (¬ g.format.val.interleaved ∧ g.interleave.written = false ∧ ¬ g.format.val.video ∧
      g.width.written = false) ∧
    (State.StreamReady { written second with pcm := [7] } ∧ second.file.written = true ∧
      second.channel.written = false ∧ second.width.written = true ∧ second.height.written = false) ∧
    (State.StreamReady { written noLoop with pcm := [7] } ∧ noLoop.format.val.sectored = true ∧
      0 < [7].length / noLoop.channels.val ∧ noLoop.loop.written = false ∧ noLoop.interleave.written = true ∧
      16 ≤ noLoop.interleave.val) := by
  refine ⟨⟨foreign_ready _ _ _ (fun h => Bool.noConfusion h) (fun h => Bool.noConfusion h) _, rfl, by decide, by decide, rfl⟩,
    ⟨by simp [foreign, mono, settings, Marked.put, Format.interleaved], rfl,
      by simp [foreign, mono, settings, Marked.put, Format.video], rfl⟩,
    ⟨foreign_ready _ _ _ (fun _ => by decide) (fun h => Bool.noConfusion h) _, rfl, rfl, rfl, rfl⟩,
    ⟨⟨rfl, rfl, ⟨rfl, rfl, rfl, rfl, fun _ => ⟨rfl, rfl⟩, (fun h => nomatch h), fun h => ?_, (fun h => nomatch h),
      fun h => ?_⟩, fun n h1 h2 => ?_⟩, rfl, by decide, rfl, rfl, by decide⟩⟩
  · simp [written, noLoop, settings, Marked.put, Format.interleaved] at h
  · simp [written, noLoop, settings, Marked.put, Format.video] at h
  · interval_cases n <;> simp [written, noLoop, settings, Settings.Clause, Marked.put]

/-- The widest field with one bit free. -/
theorem witness_BitWriteAppendsField :
    let s : State := { State.reset with bwAcc := 0xFFFE, bwLeft := 1 }
    s.fault = false ∧ s.bwInv ∧ s.outInv ∧ 16 ≤ 16 ∧ 0xFFFF < 2 ^ 16 ∧ s.bwLeft < 16 ∧ s.room 2 :=
  ⟨rfl, ⟨by decide, by decide⟩, rfl, by decide, by decide, by decide, State.room_of_le (by decide)⟩

theorem witness_BitWriteRegisters : State.reset.fault = false ∧ 16 ≤ State.reset.bwLeft ∧ 0xFFFF < 2 ^ 16 ∧
    ({ State.reset with bwLeft := 0 } : State).bwLeft < 1 ∧ 1 < 2 ^ 1 ∧
    ({ State.reset with bwLeft := 0 } : State).room 2 :=
  ⟨rfl, by decide, by decide, by decide, by decide, State.room_of_le (by decide)⟩

theorem witness_BitFlushPadsToAWord :
    let s : State := { State.reset with bwAcc := 0x8000, bwLeft := 15 }
    s.fault = false ∧ s.bwInv ∧ s.outInv ∧ s.bwLeft < 16 ∧ s.room 2 ∧ State.reset.bwInv ∧ State.reset.bwLeft = 16 :=
  ⟨rfl, ⟨by decide, by decide⟩, rfl, by decide, State.room_of_le (by decide), ⟨by decide, by decide⟩, rfl⟩

theorem witness_BitWriterFaults : State.reset.fault = false ∧ 16 < 17 ∧ (0 ≤ 16 ∧ 2 ^ 0 ≤ 1) ∧
    1 < State.reset.out.length + 2 ∧
    (1 ≤ 16 ∧ 1 < 2 ^ 1 ∧ ({ State.reset with bwLeft := 0 } : State).bwLeft < 1) := by decide

/-- The last sample of `PCM` and the one beyond it. -/
theorem witness_SampleFetchAndPrediction : ({ State.reset with pcm := [7, 9] } : State).pcm[1 + 0 * 1]? = some 9 ∧
    ({ State.reset with pcm := [7, 9] } : State).pcm.length ≤ 1 + 1 * 1 := by decide

theorem witness_AdResetZeroesOneChannel : block.fault = false ∧ block.cfg.channels.written = true ∧
    0 < block.cfg.channels.val ∧ block.cfg.channels.val ≤ 1 := by decide

theorem witness_FilterZeroHasNoPrediction : vectors.k1.getD 0 0 = 0 ∧ vectors.k2.getD 0 0 = 0 ∧
    1 ≤ vectors.predShift ∧ (List.replicate 28 (7 : Int)).length = 28 ∧
    (⟨0, 1, 2⟩ : Channel).qerr = (⟨0, 3, 4⟩ : Channel).qerr := by decide

/-- AD.MINSHIFT, AD.TRIAL with every operand at the top of its range, AD.ENCODE with `DATA` just large enough. -/
theorem witness_MinShiftIsTheLeastThatFits : block.fault = false ∧ block.cfg.channels.written = true ∧
    0 < block.cfg.channels.val ∧ 1 ≤ 1 ∧ 4 < 5 := by decide

theorem witness_TrialFollowsTheReconstruction : block.fault = false ∧ block.cfg.channels.written = true ∧
    0 < block.cfg.channels.val ∧ 1 ≤ 1 ∧ 4 < 5 ∧ 12 ≤ 12 ∧ (block.channel 0).qerr = 0 := by decide

theorem witness_EncodeCommitsNibblesAndState : block.fault = false ∧ block.cfg.channels.written = true ∧
    0 < block.cfg.channels.val ∧ 1 ≤ 1 ∧ 1 ≤ 5 ∧ 5 ≤ 5 ∧ (4 = 0 ∨ 4 = 4) ∧ 1 ≤ 1 ∧
    (∀ i, i < 28 → 0 + i * 1 < block.data.size) := by decide

theorem witness_SearchPicksTheFirstLeastCost : 1 ≤ 1 ∧ 1 ≤ 5 ∧ 1 ≤ 5 ∧ 5 ≤ 5 := by decide

theorem witness_ZeroBlockEncodesToZero : block.fault = false ∧ block.cfg.channels.written = true ∧
    0 < block.cfg.channels.val ∧ 1 ≤ 1 ∧ 1 ≤ 5 ∧ 5 ≤ 5 ∧ (0 = 0 ∨ 0 = 4) ∧ 1 ≤ 1 ∧
    (∀ i, i < 28 → 0 + i * 1 < block.data.size) ∧ (block.channel 0).qerr = 0 ∧
    ∀ i, i < 28 → block.sample 0 1 i = 0 := by decide

/-- R171's hypotheses, and a sample on which no clamp acts. -/
theorem witness_EncodeRoundTripsThroughTheDecoder : block.fault = false ∧ block.cfg.channels.written = true ∧
    0 < block.cfg.channels.val ∧ 1 ≤ 1 ∧ 1 ≤ 5 ∧ 5 ≤ 5 ∧ (4 = 0 ∨ 4 = 4) ∧ 1 ≤ 1 ∧
    (∀ i, i < 28 → 0 + i * 1 < block.data.size) ∧ (block.channel 0).qerr = 0 ∧
    ((-8 : Int) ≤ 7 ∧ (7 : Int) ≤ 7 ∧ (-32768 : Int) ≤ 7 * 2 ^ 12 + 0 ∧ (7 : Int) * 2 ^ 12 + 0 ≤ 32767) := by decide

theorem witness_AdpcmOperandFaults : block.fault = false ∧ block.cfg.channels.written = true ∧
    block.cfg.channels.val ≤ 1 ∧ 0 < block.cfg.channels.val ∧
    ((0 = 0 ∨ 0 = 4) ∧ 1 ≤ 1 ∧ 0 + 27 * 1 < block.data.size) ∧ 5 ≤ 5 ∧ 12 ≤ 12 ∧ 12 < 13 ∧ (0 = 0 ∨ 5 < 0) ∧
    (6 = 0 ∨ 5 < 6) ∧ (1 ≠ 0 ∧ 1 ≠ 4) ∧ (0 < block.data.size ∧ 0 = 0) ∧ block.data.size ≤ 1 + 27 * 1 := by decide

theorem witness_VdBeginResetsTheFrame : (written small).fault = false ∧
    (written small).cfg.width.written = true ∧ (written small).cfg.height.written = true ∧
    (0 < (written small).cfg.width.val ∧ (written small).cfg.width.val % 16 = 0) ∧
    (0 < (written small).cfg.height.val ∧ (written small).cfg.height.val % 16 = 0) ∧
    ¬ (0 < (settings .str2 0 1 0 0 0 0 16).width.val ∧ (settings .str2 0 1 0 0 0 0 16).width.val % 16 = 0) ∧
    ¬ (0 < (settings .str2 0 1 0 0 0 16 8).height.val ∧ (settings .str2 0 1 0 0 0 16 8).height.val % 16 = 0) := by
  decide

/-- A state with one black 16x16 frame. -/
def black : State := { written small with rgba := ⟨1024, Store.indexed 0 (List.replicate 1024 0)⟩ }

theorem black_byte {a : Nat} (h : a < 1024) : black.rgbaByte a = 0 := by
  unfold State.rgbaByte Memory.read?
  show (Store.lookup (Store.indexed 0 (List.replicate 1024 0)) a).getD _ = 0
  rw [Store.lookup_indexed, if_pos (by omega), List.getElem?_replicate, if_pos (by omega)]
  rfl

theorem witness_ColourTransformFillsSixBlocks : black.fault = false ∧ black.cfg.width.written = true ∧
    black.cfg.height.written = true ∧ 0 < black.cfg.width.val / 16 ∧ 0 < black.cfg.height.val / 16 ∧
    4 * ((0 + 1) * black.cfg.height.val * black.cfg.width.val) ≤ black.rgba.size ∧
    ¬ (1 < black.cfg.width.val / 16) ∧
    ¬ 4 * ((1 + 1) * black.cfg.height.val * black.cfg.width.val) ≤ black.rgba.size := by decide

theorem witness_BlackMacroblockHasNoAc : black.fault = false ∧ black.cfg.width.written = true ∧
    black.cfg.height.written = true ∧ 0 < black.cfg.width.val / 16 ∧ 0 < black.cfg.height.val / 16 ∧
    4 * ((0 + 1) * black.cfg.height.val * black.cfg.width.val) ≤ black.rgba.size ∧
    ∀ x y i, 16 * 0 ≤ x → x < 16 * 0 + 16 → 16 * 0 ≤ y → y < 16 * 0 + 16 → i < 3 →
      black.rgbaByte (4 * ((0 * black.cfg.height.val + y) * black.cfg.width.val + x) + i) = 0 := by
  refine ⟨by decide, by decide, by decide, by decide, by decide, by decide, fun x y i _ hx _ hy hi => ?_⟩
  have size : black.cfg.height.val = 16 ∧ black.cfg.width.val = 16 := ⟨rfl, rfl⟩
  rw [size.1, size.2]
  exact black_byte (by omega)

theorem witness_DctTransformsOneBlock :
    let s : State := { State.reset with mb := .put (List.replicate 6 (List.replicate 64 (-512))) }
    s.fault = false ∧ 5 ≤ 5 ∧ s.mb.written = true ∧ s.mbInv ∧ 5 < 6 :=
  ⟨rfl, by decide, rfl, fun _ => by decide, by decide⟩

theorem witness_DctPassesStayInBounds : ∀ k, k < 64 →
    -512 ≤ (List.replicate 64 (-512 : Int)).getD k 0 ∧ (List.replicate 64 (-512 : Int)).getD k 0 ≤ 511 := by decide

theorem witness_QuantWritesTheSnapshot :
    let s : State := { written small with mb := .put (List.replicate 6 (List.replicate 64 511)) }
    let n := (s.cfg.width.val / 16) * (s.cfg.height.val / 16)
    s.fault = false ∧ s.cfg.width.written = true ∧ s.cfg.height.written = true ∧ 5 ≤ 5 ∧ 0 < n ∧
      s.mb.written = true ∧ ¬ (6 ≤ 5 ∧ 0 < n) ∧ ¬ (5 ≤ 5 ∧ 1 < n) := by decide

theorem witness_RateControlMeetsTheBudget :
    let s : State := { written small with fb := Store.indexed 0 (List.replicate 6 (List.replicate 64 1)) }
    s.fault = false ∧ s.cfg.width.written = true ∧ s.cfg.height.written = true ∧
      ∀ key, key < 6 * ((s.cfg.width.val / 16) * (s.cfg.height.val / 16)) →
        (Store.lookup s.fb key).isSome = true := by decide

theorem witness_PackWritesTheBlockBits :
    let s : State := { written small with fbc := [(5, List.replicate 64 1)] }
    s.fault = false ∧ s.cfg.width.written = true ∧ s.cfg.height.written = true ∧ 5 ≤ 5 ∧
      0 < (s.cfg.width.val / 16) * (s.cfg.height.val / 16) ∧ Store.lookup s.fbc (6 * 0 + 5) = some (List.replicate 64 1) ∧
      (s.bwInv ∧ s.outInv ∧ s.room (2 * ((16 - s.bwLeft + (12 + 22 * nonzeroAc (List.replicate 64 1))) / 16))) ∧
      ¬ (6 ≤ 5 ∧ 0 < (s.cfg.width.val / 16) * (s.cfg.height.val / 16)) ∧
      ¬ (5 ≤ 5 ∧ 1 < (s.cfg.width.val / 16) * (s.cfg.height.val / 16)) :=
  ⟨rfl, rfl, rfl, by decide, by decide, rfl, ⟨⟨by decide, by decide⟩, rfl, State.room_of_le (by decide)⟩, by decide,
    by decide⟩

theorem witness_EndTerminatesTheFrame : State.reset.fault = false ∧ State.reset.bwInv ∧ State.reset.outInv ∧
    State.reset.room (2 * ((16 - State.reset.bwLeft + 12 + 15) / 16)) :=
  ⟨rfl, ⟨by decide, by decide⟩, rfl, State.room_of_le (by decide)⟩

theorem witness_DemuxSplitsIntoSevenChunks :
    let full : State := { written small with out := List.replicate 14112 0 }
    let large : State := { written small with out := List.replicate 14114 0 }
    full.fault = false ∧ full.cfg.width.written = true ∧ full.cfg.height.written = true ∧ full.out.length ≤ 14112 ∧
      full.fcFrameIndex < 2 ^ 32 ∧ full.cfg.width.val < 2 ^ 16 ∧ full.cfg.height.val < 2 ^ 16 ∧
      full.fcWords / 16 < 2 ^ 16 ∧ full.fcQscale = 1 ∧ 14112 < large.out.length := by
  refine ⟨rfl, rfl, rfl, ?_, hw_firstFrame_lt, by decide, by decide, by decide, rfl, ?_⟩
  · simp only [List.length_replicate]; omega
  · simp only [List.length_replicate]; omega

/-- A state with one black frame of 14 macroblocks, one more than fit whatever the pixels are. -/
def black14 : State :=
  { written (settings .str2 37800 1 0 0 0 224 16) with
    pcm := [], rgba := ⟨14336, Store.indexed 0 (List.replicate 14336 0)⟩ }

theorem black14_byte {a : Nat} (h : a < 14336) : black14.rgbaByte a = 0 := by
  unfold State.rgbaByte Memory.read?
  show (Store.lookup (Store.indexed 0 (List.replicate 14336 0)) a).getD _ = 0
  rw [Store.lookup_indexed, if_pos (by omega), List.getElem?_replicate, if_pos (by omega)]
  rfl

/-- Each macroblock of VD_MB_ORDER lies in the frame. -/
theorem mbOrder_inside (m : Nat) : (Config.hw.mbOrder 14 1 m).1 < 14 ∧ (Config.hw.mbOrder 14 1 m).2 < 1 := by
  have h : ∀ r : Nat → Nat → Prop, ∀ _ : DecidableRel r, ((List.range (14 * 1)).insertionSort r).getD m 0 < 14 := by
    intro r _
    rw [List.getD_eq_getElem?_getD]
    cases e : ((List.range (14 * 1)).insertionSort r)[m]? with
    | none => decide
    | some g => simpa using List.mem_range.1 ((List.mem_insertionSort r).1 (List.mem_of_getElem? e))
  exact ⟨Nat.mod_lt _ (by decide), (Nat.div_lt_iff_lt_mul (by decide)).2 (h _ _)⟩

theorem getD_map_range {α : Type} (f : Nat → α) (d : α) (n k : Nat) :
    ((List.range n).map f).getD k d = if k < n then f k else d := by
  by_cases h : k < n <;> simp [List.getD_eq_getElem?_getD, h]

/-- A block of zeros stays one through the transform and the quantiser. -/
theorem zero_block_quantised (x : Block) (hx : ∀ k, x.getD k 0 = 0) (k : Nat) :
    (quantBlock Config.hw (dctBlock Config.hw x)).getD k 0 = 0 := by
  have pass : ∀ x : Block, (∀ k, x.getD k 0 = 0) → ∀ k, (dctPass Config.hw x).getD k 0 = 0 := by
    intro x hx k
    rw [dctPass, getD_map_range]
    simp only [hx, zero_mul]
    split
    · rfl
    · rfl
  have dct : ∀ k, (dctBlock Config.hw x).getD k 0 = 0 := by
    intro k
    rw [dctBlock, dctScale, getD_map_range]
    simp only [pass _ (pass _ hx), Int.zero_tdiv, ite_self]
  rw [quantBlock, getD_map_range]
  simp only [dct, quantCoef, Int.zero_tdiv, ite_self]
  split
  · rfl
  · rfl

/-- The two chroma blocks of each macroblock of the frame are zero. -/
theorem black14_chroma (key k : Nat) (hk : key % 6 < 2) :
    ((Store.lookup (black14.frameBlocks 0) key).getD []).getD k 0 = 0 := by
  have sum : ∀ m j, j < 64 → black14.pixelSum 224 16 0 (Config.hw.mbOrder 14 1 m).1 (Config.hw.mbOrder 14 1 m).2 j =
      (0, 0, 0) := by
    intro m j hj
    have hm := mbOrder_inside m
    unfold State.pixelSum State.pixel pixelAddr
    simp only
    repeat rw [black14_byte (by omega)]
    rfl
  have zero : ∀ f : Nat → Nat → Nat → Int, f 0 0 0 = 0 → ∀ m j,
      (chromaBlock f black14 224 16 0 (Config.hw.mbOrder 14 1 m).1 (Config.hw.mbOrder 14 1 m).2).getD j 0 = 0 := by
    intro f hf m j
    rw [chromaBlock, getD_map_range]
    split
    · rename_i hj
      simp only [sum m j hj, hf]
    · rfl
  unfold State.frameBlocks
  rw [Store.lookup_indexed]
  split
  · rw [List.getElem?_map]
    cases e : (List.range (6 * nmb black14.cfg.width.val black14.cfg.height.val))[key - 0]? with
    | none => rfl
    | some i =>
      obtain ⟨hi, rfl⟩ := List.getElem?_eq_some_iff.1 e
      simp only [List.getElem_range, Nat.sub_zero, Option.map_some, Option.getD_some]
      refine zero_block_quantised _ (fun j => ?_) k
      have c := hw_csc_black
      rcases (by omega : key % 6 = 0 ∨ key % 6 = 1) with h | h <;> rw [h]
      · exact zero _ c.2.1 (key / 6) j
      · exact zero _ c.2.2 (key / 6) j
  · rfl

theorem black14_fits : black14.frameFits 0 := by
  have count : cutCount (black14.frameBlocks 0) 14 0 ≤ 3528 := by
    unfold cutCount
    refine le_trans (List.sum_le_sum (g := fun key => if key % 6 < 2 then 0 else 63) fun key _ => ?_) (by decide)
    split
    · rename_i hk
      rw [Nat.le_zero, List.length_eq_zero_iff, List.filter_eq_nil_iff]
      intro k _
      have zero : cutCoef (black14.frameBlocks 0) 0 key k = 0 := by
        simp only [cutCoef, black14_chroma key k hk, ite_self]
      simp [zero]
    · refine le_trans (List.Sublist.length_le (l₂ := (List.range 64).filter fun k => decide (0 < k)) ?_) (by decide)
      refine List.monotone_filter_right _ fun k hk => ?_
      simp only [Bool.and_eq_true] at hk
      exact hk.1
  have size : nmb black14.cfg.width.val black14.cfg.height.val = 14 := rfl
  unfold State.frameFits
  rw [size]
  dsimp only
  generalize cutCount (black14.frameBlocks 0) 14 = n at count ⊢
  exact ⟨0, by omega, fun u h => absurd h (Nat.not_lt_zero u), by omega⟩

/-- Thirteen macroblocks, the largest count that fits whatever the pixels are; and 14 that meet R218's condition. -/
theorem witness_FrameCompletesWhenItFits :
    let s : State := { written (settings .str2 37800 1 0 0 0 208 16) with rgba := ⟨13312, []⟩ }
    let w := s.cfg.width.val
    let h := s.cfg.height.val
    s.fault = false ∧ s.cfg.width.written = true ∧ s.cfg.height.written = true ∧ 0 < w ∧ w % 16 = 0 ∧ 0 < h ∧
      h % 16 = 0 ∧ (w / 16) * (h / 16) ≤ 13 ∧ 4 * ((0 + 1) * h * w) ≤ s.rgba.size ∧
      black14.fault = false ∧ black14.frameFits 0 ∧ 4 * ((0 + 1) * 16 * 224) ≤ black14.rgba.size :=
  ⟨rfl, rfl, rfl, by decide, by decide, by decide, by decide, by decide, by decide, rfl, black14_fits, by decide⟩

theorem witness_TablesSetTheBuiltMark : State.reset.fault = false ∧ (written mono).fault = false ∧
    (written mono).tbuilt = true := by decide

theorem witness_GfTablesWalkTheField : 253 < 254 ∧ 1 ≤ 255 ∧ 255 ≤ 255 ∧ 254 < 255 := by decide

theorem witness_InitWritesTheSubheaderTwice : (written mono).fault = false ∧
    (written mono).cfg.file.written = true ∧ (written mono).cfg.channel.written = true ∧ 0xFF ≤ 0xFF ∧
    (written mono).cfg.file.val ≤ 255 ∧ (written mono).cfg.channel.val ≤ 255 ∧ (0xFF < 0x100 ∨ 0xFF < 0) := by decide

/-- The last sector that can be stamped from the suggested offset, and the first that cannot. -/
theorem witness_StampWritesBcdTime : State.reset.fault = false ∧ (449849 + 150) / 4500 ≤ 99 ∧
    99 < (449850 + 150) / 4500 := by decide

theorem witness_EdcIsStoredAfterItsRange : sector.fault = false ∧ sector.tbuilt = true ∧ (1 = 1 ∨ 1 = 2) ∧
    sector.sec.cells ≠ [] ∧ State.reset.tbuilt = false ∧ 3 ≠ 1 ∧ 3 ≠ 2 := by decide

theorem witness_EdcDetectsAChangedByte : ([1, 2] : List Byte).length = ([3, 4] : List Byte).length ∧
    (0x00 : Byte) ≠ 0x80 := by decide

theorem witness_ParityLeavesTheSectorBody : sector.fault = false ∧ sector.tbuilt = true ∧ sector.sec.cells ≠ [] := by
  decide

theorem witness_ParityChecksHold : sector.fault = false ∧ sector.tbuilt = true ∧ sector.sec.cells ≠ [] ∧ 42 < 43 ∧
    25 < 26 ∧ 1 < 2 := by decide

/-- Two sectors that differ in the header alone. -/
theorem witness_ParityIgnoresTheTimestamp :
    let s := sector.putSec 0x00C [0x00, 0x02, 0x00, 0x02]
    let u := sector.putSec 0x00C [0x00, 0x22, 0x71, 0x02]
    s.fault = false ∧ u.fault = false ∧ s.tbuilt = true ∧ u.tbuilt = true ∧ s.sec.cells ≠ [] ∧ u.sec.cells ≠ [] ∧
      ∀ a, 0x010 ≤ a → a < 0x81C → s.secByte a = u.secByte a := by
  refine ⟨rfl, rfl, rfl, rfl, by decide, by decide, fun a h _ => ?_⟩
  rw [State.secByte_putSec, State.secByte_putSec, if_neg (by simp; omega), if_neg (by simp; omega)]

theorem witness_TablesNotBuiltFaults : State.reset.fault = false ∧ State.reset.tbuilt = false := by decide

theorem witness_EmitAppendsTheSector : sector.fault = false ∧ sector.sec.cells ≠ [] ∧ (2336 = 2352 ∨ 2336 = 2336) ∧
    2048 ≠ 2352 ∧ 2048 ≠ 2336 := by decide

theorem witness_StreamsStartInInitOnly : (Instr.mxStr).mx = true ∧
    ({ State.reset with phase := .encoding } : State).phase = .encoding ∧
    ({ State.reset with phase := .finalize } : State).phase = .finalize ∧
    ({ State.reset with phase := .done } : State).phase = .done := by decide

/-- A state whose written settings are valid can start a stream. -/
theorem ready_of_valid {f : Format} {hz ch interleave alignment loop w h : Nat}
    (hv : (settings f hz ch interleave alignment loop w h).Valid) (pcm : List Sample) (rgba : Memory) :
    State.StreamReady
      { written (settings f hz ch interleave alignment loop w h) with pcm := pcm, rgba := rgba } :=
  ⟨rfl, rfl, settings_written .., hv⟩

/-- The block's buffers have their sizes and canonical form while nothing has written them. -/
theorem written_memInv_of (g : Settings) (pcm : List Sample) (rgba : Memory) (h : rgba.wf) :
    State.memInv { written g with pcm := pcm, rgba := rgba } := by
  simp [State.memInv, written, State.reset, State.resetOf, Memory.wf, Memory.wfZ, Store.wf, Config.slotBytes, h.1]
  exact fun a b => h.2 (a, b)

theorem written_memInv (g : Settings) {n : Nat} (pcm : List Sample) :
    State.memInv { written g with pcm := pcm, rgba := ⟨n, []⟩ } :=
  written_memInv_of g pcm _ ⟨List.Pairwise.nil, fun _ h => nomatch h⟩

theorem black14_memInv : black14.memInv :=
  written_memInv_of _ _ _ ⟨Store.wf_indexed 0 _, fun p hp => by
    have := (Store.mem_indexed hp).2; rwa [List.length_replicate, Nat.zero_add] at this⟩

theorem witness_SpuStreamIsTheBlocksInOrder :
    let s : State := { written (settings .spu 1 1 0 0 1 0 0) with pcm := List.replicate 29 7, rgba := ⟨0, []⟩ }
    let u : State := { written (settings .vag 1 1 0 0 0 0 0) with pcm := [], rgba := ⟨0, []⟩ }
    (s.StreamReady ∧ s.memInv) ∧ u.StreamReady ∧ u.memInv := by
  refine ⟨⟨ready_of_valid (fun n h1 h2 => ?_) _ _, written_memInv _ _⟩, ready_of_valid (fun n h1 h2 => ?_) _ _,
    written_memInv _ _⟩ <;>
    interval_cases n <;> simp [settings, Settings.Clause, Marked.put]

theorem witness_SpuiStreamIsWholeChunks :
    let s : State := { written (settings .spui 1 2 16 0 1 0 0) with pcm := List.replicate 57 7, rgba := ⟨0, []⟩ }
    let u : State := { written (settings .vagi 1 1 32 2048 0 0 0) with pcm := [7], rgba := ⟨0, []⟩ }
    (s.StreamReady ∧ s.memInv) ∧ u.StreamReady ∧ u.memInv := by
  refine ⟨⟨ready_of_valid (fun n h1 h2 => ?_) _ _, written_memInv _ _⟩, ready_of_valid (fun n h1 h2 => ?_) _ _,
    written_memInv _ _⟩ <;>
    interval_cases n <;> simp [settings, Settings.Clause, Marked.put]

/-- One sample, so one sector, in both formats, from the last offset under which it can be stamped. -/
theorem witness_XaStreamIsWholeSectors :
    let s : State := { written (settings .xa 18900 1 0 0 0 0 0) with pcm := [7], rgba := ⟨0, []⟩ }
    let u : State := { written (settings .xacd 37800 1 0 0 0 0 0) with pcm := [7], rgba := ⟨0, []⟩ }
    (s.StreamReady ∧ s.memInv) ∧ (u.StreamReady ∧ u.memInv) ∧
      ∀ n, n < (1 / 1 + 4032 / 1 - 1) / (4032 / 1) → n + 449999 < 450000 := by
  refine ⟨⟨ready_of_valid (fun n h1 h2 => ?_) _ _, written_memInv _ _⟩, ⟨ready_of_valid (fun n h1 h2 => ?_) _ _,
    written_memInv _ _⟩, fun n h => ?_⟩
  · interval_cases n <;> simp [settings, Settings.Clause, Marked.put]
  · interval_cases n <;> simp [settings, Settings.Clause, Marked.put]
  · omega

/-- One frame of one macroblock, in both formats, from the last offset under which its group can be stamped; and a frame
of 14 that meets R218's condition. -/
theorem witness_StrStreamIsGroupsOfEight :
    let s : State := { written (settings .str2 37800 1 0 0 0 16 16) with pcm := [], rgba := ⟨1024, []⟩ }
    let u : State := { written (settings .str2cd 18900 2 0 0 0 16 16) with pcm := [], rgba := ⟨1024, []⟩ }
    (s.StreamReady ∧ s.memInv) ∧ (u.StreamReady ∧ u.memInv) ∧ (State.StreamReady black14 ∧ black14.memInv) ∧ (16 / 16) * (16 / 16) ≤ 13 ∧
      (∀ n, n < 8 * (1024 / (4 * (16 * 16))) → n + 449992 < 450000) ∧
      ∀ n, n < black14.rgba.size / (4 * (224 * 16)) → black14.frameFits n := by
  refine ⟨⟨ready_of_valid (fun n h1 h2 => ?_) _ _, written_memInv _ _⟩,
    ⟨ready_of_valid (fun n h1 h2 => ?_) _ _, written_memInv _ _⟩,
    ⟨ready_of_valid (fun n h1 h2 => ?_) _ _, black14_memInv⟩, by decide, fun n h => by omega, fun n h => ?_⟩
  · interval_cases n <;> simp [settings, Settings.Clause, Marked.put]
  · interval_cases n <;> simp [settings, Settings.Clause, Marked.put]
  · interval_cases n <;> simp [settings, Settings.Clause, Marked.put]
  · have : n = 0 := by simp only [black14] at h; omega
    exact this ▸ black14_fits

theorem witness_IsoImageBecomesRawSectors :
    let s : State := { written mono with iso := ⟨2048, []⟩ }
    s.fault = false ∧ s.phase = .init ∧ s.iso.size % 2048 = 0 ∧ s.tbuilt = true ∧ s.cfg.file.written = true ∧
      s.cfg.channel.written = true ∧ (∀ n, n < s.iso.size / 2048 → n + 449999 < 450000) ∧
      s.cfg.file.val ≤ 255 ∧ s.cfg.channel.val ≤ 255 ∧ 2047 % 2048 ≠ 0 :=
  ⟨rfl, rfl, rfl, rfl, rfl, rfl, fun n h => by simp only at h; omega, by decide, by decide, by decide⟩

/-- Reset meets each invariant, and a command runs there. -/
theorem witness_StepKeepsBuffersCanonical : State.reset.memInv ∧ State.reset.storeInv ∧ State.reset.mbInv ∧
    ∃ t, step (State.reset.issue (encode .scTables)) = .next t := by
  refine ⟨?_, ⟨List.Pairwise.nil, fun _ hp => (List.not_mem_nil hp).elim, List.Pairwise.nil, List.Pairwise.nil⟩,
    (fun h => nomatch h), _, rfl⟩
  simp [State.memInv, State.reset, State.resetOf, Memory.wf, Memory.wfZ, Store.wf, Config.slotBytes]

theorem witness_StepKeepsBitWriter : State.reset.bwInv ∧ State.reset.outInv ∧
    ∃ t, step (State.reset.issue (encode (.bwWrite 10 0x1FF))) = .next t :=
  ⟨⟨by decide, by decide⟩, rfl, _, rfl⟩

theorem witness_StepKeepsFaultAndPhase : (faulted []).faultInv ∧ (faulted []).phaseInv ∧
    ∃ t, step (faulted []) = .next t :=
  ⟨⟨by decide, fun _ => by decide⟩, .inr (.inr rfl), _, rfl⟩

theorem witness_StepKeepsQuantErrorZero : State.reset.qerrInv ∧ State.reset.fcQscale = 1 ∧
    ∃ t, step State.reset = .next t := ⟨fun _ => rfl, rfl, _, rfl⟩

theorem witness_CommandsLeaveHostBuffers : (∃ t, exec .scTables State.reset = .next t) ∧ Instr.scTables ≠ .sysReset ∧
    ∀ c base stride fc dbase ds dp, Instr.scTables ≠ .adEncode c base stride fc dbase ds dp :=
  ⟨⟨_, rfl⟩, by decide, fun _ _ _ _ _ _ _ h => nomatch h⟩

/-- A stream command and a unit command that take no fault. -/
theorem witness_OnlyMxCommandsMovePhase : Instr.mxIso2raw ≠ .sysReset ∧
    (∃ t, exec .mxIso2raw State.reset = .next t ∧ t.fault = false) ∧
    ∃ t, exec .scTables State.reset = .next t ∧ t.fault = false :=
  ⟨by decide, ⟨_, rfl, rfl⟩, _, rfl, rfl⟩

end Sys2Proof.Tests
end

section
/-! SUPPORT. The ADPCM Encoder (spec/41_adpcm.md): the rules for its parts (the channel check, filter 0, the order of
the search, the nibble lane), each followed by the statement it settles: O16, O17, O21, O22. -/

namespace Sys2Proof.Machine

/-! ## AD.RESET (R151) -/

theorem exec_adReset (c : Nat) {s : State} (hf : s.fault = false) : exec (.adReset c) s = adReset c s :=
  unlessFaulted_ok hf _

theorem checkChannel_of_lt {ch : Nat} {s : State} (hw : s.cfg.channels.written = true) (h : ch < s.cfg.channels.val)
    (r : Result) : checkChannel ch s r = r := by
  rw [checkChannel, need_written hw, if_neg (by omega)]

theorem checkChannel_of_le {ch : Nat} {s : State} (hw : s.cfg.channels.written = true) (h : s.cfg.channels.val ≤ ch)
    (r : Result) : checkChannel ch s r = raise .adpcmOperand 0 s := by
  rw [checkChannel, need_written hw, if_pos h]

/-- Settles O16: the channel check decides between the write of one channel and the fault. -/
theorem adResetZeroesOneChannel : Obligations.AdResetZeroesOneChannel := by
  intro s c hf hw
  rw [exec_adReset c hf, adReset]
  refine ⟨fun h => ?_, fun h => checkChannel_of_le hw h _⟩
  refine ⟨s.putChannel c Channel.zero, checkChannel_of_lt hw h _, ?_, fun d hd => ?_, rfl⟩
  · rw [State.channel_putChannel, if_pos rfl]; rfl
  · rw [State.channel_putChannel, if_neg hd]

/-! ## Filter 0 (R154) -/

/-- Filter 0 of a configuration has no coefficients, and the rounding term is half a unit (R153, R154). -/
structure SilentFilterZero (c : Config) : Prop where
  k1 : c.k1.getD 0 0 = 0
  k2 : c.k2.getD 0 0 = 0
  predShift : 1 ≤ c.predShift

theorem hw_silentFilterZero : SilentFilterZero Config.hw := ⟨rfl, rfl, by rw [hw_predShift]; decide⟩

section
variable {c : Config} (h : SilentFilterZero c)
include h

/-- What is left of the prediction is the rounding term, and the shift drops it. -/
theorem predict_filterZero (p1 p2 : Int) : predict c 0 p1 p2 = 0 := by
  have half : (2 : Int) ^ (c.predShift - 1) < 2 ^ c.predShift :=
    pow_lt_pow_right₀ (by decide) (by have := h.predShift; omega)
  rw [predict, h.k1, h.k2, zero_mul, zero_mul, zero_add, zero_add, Int.shiftRight_eq_div_pow]
  exact Int.ediv_eq_zero_of_lt (by positivity) (by exact_mod_cast half)

theorem sampleStep_filterZero (r : Nat) (x p1 p2 : Int) :
    sampleStep c 0 r x p1 p2 = (quantize r x, rebuild r (quantize r x) 0) := by
  simp only [sampleStep, predict_filterZero h, sub_zero]

/-- Under filter 0 a step reads the history only to pass the last sample on. -/
theorem trialStep_filterZero_history (r : Nat) (qerr : BitVec 32) (t : Trial) (x p1 p2 : Int) :
    trialStep c 0 r qerr { t with p1 := p1, p2 := p2 } x = { trialStep c 0 r qerr t x with p2 := p1 } := by
  simp only [trialStep, sampleStep_filterZero h]

/-- Two samples push the seed of a filter 0 trial out of the history. -/
theorem trialStep_filterZero_twice (r : Nat) (qerr : BitVec 32) (t : Trial) (a b p1 p2 : Int) :
    trialStep c 0 r qerr (trialStep c 0 r qerr { t with p1 := p1, p2 := p2 } a) b =
      trialStep c 0 r qerr (trialStep c 0 r qerr t a) b := by
  rw [trialStep_filterZero_history h r qerr t a]
  exact trialStep_filterZero_history h r qerr (trialStep c 0 r qerr t a) b _ p1

theorem trialOf_filterZero_congr {v w : Channel} {xs : List Int} (hl : 2 ≤ xs.length) (hq : v.qerr = w.qerr)
    (r : Nat) : trialOf c v xs 0 r = trialOf c w xs 0 r := by
  match xs, hl with
  | a :: b :: xs, _ =>
    have seed := trialStep_filterZero_twice h r w.qerr ⟨w.prev1.toInt, w.prev2.toInt, 0, []⟩ a b
    simp only [trialOf, List.foldl_cons, hq]
    exact congrArg (xs.foldl _) (seed v.prev1.toInt v.prev2.toInt)

theorem candOf_filterZero_congr {v w : Channel} {xs : List Int} (hl : 2 ≤ xs.length) (hq : v.qerr = w.qerr)
    (r : Nat) : candOf c v xs 0 r = candOf c w xs 0 r := by
  rw [candOf, trialOf_filterZero_congr h hl hq, hq, candOf]

/-- Under filter 0 every residual is the sample itself. -/
theorem residualRange_filterZero_congr (xs : List Int) (p1 p2 q1 q2 emin emax : Int) :
    residualRange c 0 xs p1 p2 emin emax = residualRange c 0 xs q1 q2 emin emax := by
  induction xs generalizing p1 p2 q1 q2 emin emax with
  | nil => rfl
  | cons x xs ih => simpa only [residualRange, predict_filterZero h] using ih x p1 x q1 _ _

theorem minShiftOf_filterZero_congr (v w : Channel) (xs : List Int) : minShiftOf c v xs 0 = minShiftOf c w xs 0 := by
  rw [minShiftOf, residualRange_filterZero_congr h xs _ _ w.prev1.toInt w.prev2.toInt, minShiftOf]

end

/-- Settles O17: without coefficients filter 0 predicts 0, and two steps forget the seed. -/
theorem filterZeroHasNoPrediction : Obligations.FilterZeroHasNoPrediction := by
  refine ⟨hw_silentFilterZero.k1, hw_silentFilterZero.k2, fun c hk1 hk2 hp => ?_⟩
  have h : SilentFilterZero c := ⟨hk1, hk2, hp⟩
  exact ⟨predict_filterZero h, fun v w xs r hl hq =>
    ⟨candOf_filterZero_congr h (by omega) hq r, minShiftOf_filterZero_congr h v w xs⟩⟩

/-! ## The first element of least cost in a list -/

/-- `p` is the first element of least cost in `l`: what stands before it costs strictly more, what stands after it no
less. -/
def FirstLeast {α : Type} (cost : α → BitVec 64) (l : List α) (p : α) : Prop :=
  ∃ front back, l = front ++ p :: back ∧ (∀ q ∈ front, cost p < cost q) ∧ ∀ q ∈ back, cost p ≤ cost q

namespace FirstLeast
variable {α : Type} {cost : α → BitVec 64} {l : List α} {p q : α}

theorem mem (h : FirstLeast cost l p) : p ∈ l := by
  obtain ⟨front, back, rfl, -, -⟩ := h
  simp

theorem le (h : FirstLeast cost l p) (hq : q ∈ l) : cost p ≤ cost q := by
  obtain ⟨front, back, rfl, hfront, hback⟩ := h
  rcases List.mem_append.1 hq with hq | hq
  · exact BitVec.le_of_lt (hfront q hq)
  · rcases List.mem_cons.1 hq with rfl | hq
    · exact BitVec.le_refl _
    · exact hback q hq

/-- In a list sorted by an asymmetric relation, what is below the first least element stands before it. -/
theorem lt_of_rel {R : α → α → Prop} (hR : ∀ x y, R x y → ¬ R y x) (h : FirstLeast cost l p)
    (sorted : l.Pairwise R) (hq : q ∈ l) (hqp : R q p) : cost p < cost q := by
  obtain ⟨front, back, rfl, hfront, -⟩ := h
  rcases List.mem_append.1 hq with hq | hq
  · exact hfront q hq
  · rcases List.mem_cons.1 hq with rfl | hq
    · exact absurd hqp (hR _ _ hqp)
    · have hpq : R p q := List.rel_of_pairwise_cons (List.pairwise_append.1 sorted).2.1 hq
      exact absurd hqp (hR _ _ hpq)

theorem single (cost : α → BitVec 64) (q : α) : FirstLeast cost [q] q := ⟨[], [], rfl, by simp, by simp⟩

/-- A strictly cheaper element at the end replaces the first least one. -/
theorem snoc_of_lt (h : FirstLeast cost l p) (hq : cost q < cost p) : FirstLeast cost (l ++ [q]) q :=
  ⟨l, [], rfl, fun _ hx => by have := h.le hx; bv_omega, by simp⟩

/-- Any other element at the end leaves it. -/
theorem snoc_of_not_lt (h : FirstLeast cost l p) (hq : ¬ cost q < cost p) : FirstLeast cost (l ++ [q]) p := by
  obtain ⟨front, back, rfl, hfront, hback⟩ := h
  refine ⟨front, back ++ [q], by simp, hfront, fun x hx => ?_⟩
  rcases List.mem_append.1 hx with hx | hx
  · exact hback x hx
  · rw [List.mem_singleton.1 hx]; exact BitVec.not_lt.1 hq

end FirstLeast

/-! ## The search (R165-R167) -/

/-- The order in which the search tries its pairs: filters ascending, shifts ascending within a filter (R167). -/
def TriedBefore (p q : Nat × Nat) : Prop := p.1 < q.1 ∨ p.1 = q.1 ∧ p.2 < q.2

theorem TriedBefore.asymm (p q : Nat × Nat) (h : TriedBefore p q) : ¬ TriedBefore q p := by
  unfold TriedBefore at *; omega

theorem mem_shiftWindow {c : Config} {m r : Nat} (hm : m ≤ c.shiftMax) :
    r ∈ shiftWindow c m ↔ r ≤ c.shiftMax ∧ m ≤ r + 1 ∧ r ≤ m + 1 := by
  simp only [shiftWindow, List.mem_map, List.mem_range]
  constructor
  · rintro ⟨i, hi, rfl⟩; omega
  · intro h; exact ⟨r - (m - 1), by omega, by omega⟩

theorem shiftWindow_sorted (c : Config) (m : Nat) : (shiftWindow c m).Pairwise (· < ·) :=
  List.pairwise_map.2 (List.pairwise_lt_range.imp fun h => by omega)

theorem leastShift_le (c : Config) (emin emax : Int) : leastShift c emin emax ≤ c.shiftMax := by
  unfold leastShift
  cases e : (List.range c.shiftMax).find? (fitsShift emin emax) with
  | none => exact le_rfl
  | some m => exact le_of_lt (List.mem_range.1 (List.mem_of_find?_eq_some e))

section
variable (c : Config) (v : Channel) (xs : List Int)

theorem minShiftOf_le (f : Nat) : minShiftOf c v xs f ≤ c.shiftMax := leastShift_le c _ _

variable {c v xs} in
theorem mem_searchPairs {fc f r : Nat} : (f, r) ∈ searchPairs c v xs fc ↔
    f < fc ∧ r ≤ c.shiftMax ∧ minShiftOf c v xs f ≤ r + 1 ∧ r ≤ minShiftOf c v xs f + 1 := by
  simp [searchPairs, mem_shiftWindow (minShiftOf_le c v xs _)]

theorem searchPairs_sorted (fc : Nat) : (searchPairs c v xs fc).Pairwise TriedBefore := by
  refine List.pairwise_flatMap.2 ⟨fun f _ => ?_, List.pairwise_lt_range.imp fun hfg p hp q hq => ?_⟩
  · exact List.pairwise_map.2 ((shiftWindow_sorted c _).imp fun h => .inr ⟨rfl, h⟩)
  · obtain ⟨r, -, rfl⟩ := List.mem_map.1 hp
    obtain ⟨u, -, rfl⟩ := List.mem_map.1 hq
    exact .inl hfg

theorem searchPairs_ne_nil {fc : Nat} (hfc : 1 ≤ fc) : searchPairs c v xs fc ≠ [] :=
  List.ne_nil_of_mem (mem_searchPairs.2 ⟨hfc, minShiftOf_le c v xs 0, by omega, by omega⟩)

/-- The cost of a pair (R161, R167). -/
def trialCost (p : Nat × Nat) : BitVec 64 := (candOf c v xs p.1 p.2).mse

/-- `BEST` when it holds a pair and its cost (R27). -/
def bestAt (p : Nat × Nat) : Best := ⟨some (trialCost c v xs p), p.1, p.2⟩

theorem searchStep_none (f r : Nat) (q : Nat × Nat) : searchStep c v xs ⟨none, f, r⟩ q = bestAt c v xs q := rfl

theorem searchStep_bestAt (p q : Nat × Nat) : searchStep c v xs (bestAt c v xs p) q =
    if trialCost c v xs q < trialCost c v xs p then bestAt c v xs q else bestAt c v xs p := by
  have hbeats : beats (trialCost c v xs q) (bestAt c v xs p) = decide (trialCost c v xs q < trialCost c v xs p) := rfl
  rw [searchStep, ← trialCost, hbeats, ← bestAt]
  simp only [decide_eq_true_eq]

/-- The comparisons of R167 keep the first pair of least cost among those seen. -/
theorem foldl_searchStep {l : List (Nat × Nat)} (hl : l ≠ []) : ∃ p, FirstLeast (trialCost c v xs) l p ∧
    l.foldl (searchStep c v xs) ⟨none, 0, 0⟩ = bestAt c v xs p := by
  induction l using List.reverseRecOn with
  | nil => exact absurd rfl hl
  | append_singleton l q ih =>
    rw [List.foldl_append, List.foldl_cons, List.foldl_nil]
    rcases eq_or_ne l [] with rfl | hne
    · exact ⟨q, .single _ q, searchStep_none c v xs 0 0 q⟩
    · obtain ⟨p, hp, e⟩ := ih hne
      rw [e, searchStep_bestAt]
      split_ifs with hq
      · exact ⟨q, hp.snoc_of_lt hq, rfl⟩
      · exact ⟨p, hp.snoc_of_not_lt hq, rfl⟩

theorem searchBest_firstLeast {fc : Nat} (hfc : 1 ≤ fc) : ∃ p,
    FirstLeast (trialCost c v xs) (searchPairs c v xs fc) p ∧ searchBest c v xs fc = bestAt c v xs p :=
  foldl_searchStep c v xs (searchPairs_ne_nil c v xs hfc)

end

/-- Settles O21: the search keeps the first pair of least cost, and its list of pairs is sorted by the order of R167. -/
theorem searchPicksTheFirstLeastCost : Obligations.SearchPicksTheFirstLeastCost := by
  intro v xs fc hfc _
  obtain ⟨⟨f, r⟩, hp, e⟩ := searchBest_firstLeast Config.hw v xs hfc
  have hb : (encodeBlock fc v xs).1 = bestAt Config.hw v xs (f, r) := e
  rw [hb]
  refine ⟨mem_searchPairs.1 hp.mem, rfl, fun g u hgu => ?_⟩
  have hq : (g, u) ∈ searchPairs Config.hw v xs fc := mem_searchPairs.2 hgu
  have least := hp.le hq
  have first := hp.lt_of_rel TriedBefore.asymm (searchPairs_sorted Config.hw v xs fc) hq
  exact ⟨least, first⟩

/-! ## The nibble lane (R63) -/

/-- The lane of a byte reads back the nibble written to it. -/
theorem withNibble_lane (old : Byte) (nib : Nibble) {ds : Nat} (h : ds = 0 ∨ ds = 4) :
    (withNibble old ds nib >>> ds).setWidth 4 = nib := by
  ext i hi
  rcases h with rfl | rfl
  · simp [withNibble]
  · have mask : (0xF#8).getLsbD (4 + i) = false := by interval_cases i <;> rfl
    have byte : 4 + i < 8 := by omega
    have low : i < 8 := by omega
    rw [BitVec.getLsbD_eq_getElem byte] at mask
    simp [withNibble, mask, byte, low, BitVec.getLsbD_eq_getElem hi]

theorem laneAddrs_nodup (c : Config) (dbase : Nat) {dp : Nat} (hdp : 1 ≤ dp) : (laneAddrs c dbase dp).Nodup :=
  List.Nodup.map (fun _ _ e => Nat.eq_of_mul_eq_mul_right hdp (Nat.add_left_cancel e)) List.nodup_range

section
variable {t : Target} {ds : Nat}

theorem State.targetByte_putNibble (s : State) (p : Nat × Nibble) (a : Nat) :
    (State.putNibble t ds s p).targetByte t a =
      if a = p.1 then withNibble (s.targetByte t a) ds p.2 else s.targetByte t a := by
  rw [State.putNibble, State.targetByte_putTarget]
  split_ifs with h
  · rw [h]
  · rfl

theorem State.targetByte_foldl_putNibble_of_not_mem {l : List (Nat × Nibble)} {a : Nat} (h : a ∉ l.map Prod.fst)
    (s : State) : (l.foldl (State.putNibble t ds) s).targetByte t a = s.targetByte t a := by
  induction l generalizing s with
  | nil => rfl
  | cons p l ih =>
    rw [List.map_cons, List.mem_cons, not_or] at h
    rw [List.foldl_cons, ih h.2, State.targetByte_putNibble, if_neg h.1]

theorem State.targetByte_foldl_putNibble_of_mem {l : List (Nat × Nibble)} (nodup : (l.map Prod.fst).Nodup) {a : Nat}
    {n : Nibble} (h : (a, n) ∈ l) (s : State) :
    (l.foldl (State.putNibble t ds) s).targetByte t a = withNibble (s.targetByte t a) ds n := by
  induction l generalizing s with
  | nil => exact absurd h List.not_mem_nil
  | cons p l ih =>
    obtain ⟨hp, hl⟩ := List.nodup_cons.1 nodup
    rw [List.foldl_cons]
    rcases List.mem_cons.1 h with rfl | h
    · rw [State.targetByte_foldl_putNibble_of_not_mem hp, State.targetByte_putNibble, if_pos rfl]
    · have hne : a ≠ p.1 := fun e => hp (e ▸ List.mem_map_of_mem (f := Prod.fst) h)
      rw [ih hl h, State.targetByte_putNibble, if_neg hne]

/-- The byte of nibble `i` after the commit (R63, R166). -/
theorem State.targetByte_putNibbles (c : Config) (s : State) (dbase : Nat) {dp i : Nat} {nibs : List Nibble}
    (hdp : 1 ≤ dp) (hl : nibs.length = c.nsamp) (hi : i < c.nsamp) :
    (s.putNibbles c t dbase ds dp nibs).targetByte t (dbase + i * dp) =
      withNibble (s.targetByte t (dbase + i * dp)) ds (nibs.getD i 0) := by
  have hlen : (laneAddrs c dbase dp).length = c.nsamp := by simp [laneAddrs]
  refine State.targetByte_foldl_putNibble_of_mem ?_ ?_ s
  · rw [List.map_fst_zip (by omega)]
    exact laneAddrs_nodup c dbase hdp
  · refine List.mem_iff_getElem.2 ⟨i, by simp [hlen, hl, hi], ?_⟩
    simp [laneAddrs, List.getD_eq_getElem?_getD, hl, hi]

end

/-! ## A block of zeros (R173) -/

theorem exec_adEncode {s : State} {c base stride fc dbase ds dp : Nat} (hf : s.fault = false)
    (hw : s.cfg.channels.written = true) (h : EncodeOperands s .data c stride fc dbase ds dp) :
    exec (.adEncode c base stride fc dbase ds dp) s =
      .next (s.encoded Config.hw .data c base stride fc dbase ds dp) :=
  (unlessFaulted_ok hf _).trans (adEncode_runs hw_sizes hw h)

theorem samples_eq_replicate {s : State} {base stride : Nat} (h : ∀ i, i < 28 → s.sample base stride i = 0) :
    s.samples Config.hw base stride = List.replicate 28 0 := by
  refine List.eq_replicate_iff.2 ⟨by simp [State.samples], fun x hx => ?_⟩
  obtain ⟨i, hi, rfl⟩ := List.mem_map.1 hx
  exact h i (List.mem_range.1 hi)

section
variable {c : Config} (h : SilentFilterZero c)
include h

theorem residualRange_zeros (n : Nat) (p1 p2 : Int) : residualRange c 0 (List.replicate n 0) p1 p2 0 0 = (0, 0) := by
  induction n generalizing p1 p2 with
  | zero => rfl
  | succ n ih => simpa [List.replicate_succ, residualRange, predict_filterZero h] using ih 0 p1

/-- The step at the fixed point: a zero sample on a zero history costs nothing and gives a zero nibble. -/
theorem foldl_trialStep_zeros (hq : c.qerrEnable = false) (n : Nat) (nibs : List Nibble) :
    (List.replicate n (0 : Int)).foldl (trialStep c 0 0 0) ⟨0, 0, 0, nibs⟩ =
      ⟨0, 0, 0, nibs ++ List.replicate n 0⟩ := by
  induction n generalizing nibs with
  | zero => simp
  | succ n ih =>
    have step : trialStep c 0 0 0 ⟨0, 0, 0, nibs⟩ 0 = ⟨0, 0, 0, nibs ++ [0]⟩ := by
      simp [trialStep, sampleStep_filterZero h, carriedError, hq, quantize, rebuild, clamp]
    rw [List.replicate_succ, List.foldl_cons, step, ih, List.append_assoc]
    rfl

end

/-- No residual, so no shift is needed. -/
theorem minShiftOf_zeros (v : Channel) : minShiftOf Config.hw v (List.replicate 28 0) 0 = 0 := by
  rw [minShiftOf, residualRange_zeros hw_silentFilterZero]
  rfl

/-- Filter 0 at shift 0 rebuilds a block of zeros exactly, from every channel without a carried error. -/
theorem candOf_zeros {v : Channel} (hq : v.qerr = 0) :
    candOf Config.hw v (List.replicate 28 0) 0 0 = ⟨0, 0, 0, 0, List.replicate 28 0⟩ := by
  rw [candOf_filterZero_congr hw_silentFilterZero (w := Channel.zero) (by simp) hq, candOf]
  have run : trialOf Config.hw Channel.zero (List.replicate 28 0) 0 0 = ⟨0, 0, 0, List.replicate 28 0⟩ :=
    foldl_trialStep_zeros hw_silentFilterZero hw_qerrEnable 28 []
  simp only [run, carriedError_hw]
  rfl

/-- The pair (0, 0) is tried first and costs nothing, so no later pair beats it. -/
theorem searchBest_zeros {v : Channel} (hq : v.qerr = 0) {fc : Nat} (hfc : 1 ≤ fc) :
    searchBest Config.hw v (List.replicate 28 0) fc = ⟨some 0, 0, 0⟩ := by
  obtain ⟨p, hp, e⟩ := searchBest_firstLeast Config.hw v (List.replicate 28 0) hfc
  have free : trialCost Config.hw v (List.replicate 28 0) (0, 0) = 0 := by rw [trialCost, candOf_zeros hq]
  have tried : (0, 0) ∈ searchPairs Config.hw v (List.replicate 28 0) fc := by
    rw [mem_searchPairs, minShiftOf_zeros]; omega
  have first : p = (0, 0) := by
    by_contra hne
    have before : TriedBefore (0, 0) p := by
      have : ¬ (p.1 = 0 ∧ p.2 = 0) := fun h => hne (Prod.ext h.1 h.2)
      unfold TriedBefore; omega
    have := hp.lt_of_rel TriedBefore.asymm (searchPairs_sorted _ _ _ _) tried before
    rw [free] at this
    exact BitVec.not_lt_zero this
  rw [e, first, bestAt, free]

/-- Settles O22: the search commits filter 0 at shift 0, whose candidate is all zero. -/
theorem zeroBlockEncodesToZero : Obligations.ZeroBlockEncodesToZero := by
  intro s c base stride fc dbase ds dp hf hw hc hstride hfc1 hfc5 hds hdp hin hq hzero
  refine ⟨_, exec_adEncode hf hw ⟨hc, hstride, ⟨hfc1, hfc5⟩, hds, hdp, hin⟩, ?_⟩
  rw [State.encoded, samples_eq_replicate hzero, searchBest_zeros hq hfc1, candOf_zeros hq]
  refine ⟨rfl, rfl, fun i hi => ?_, ?_⟩
  · have lane := State.targetByte_putNibbles (t := .data) (ds := ds) Config.hw s dbase
      (nibs := List.replicate 28 0) hdp rfl hi
    refine (congrArg (fun b : Byte => (b >>> ds).setWidth 4) lane).trans ?_
    rw [withNibble_lane _ _ hds, List.getD_replicate _ hi]
    rfl
  · refine (State.channel_putChannel _ _ _ _).trans ?_
    rw [if_pos rfl, hq]

end Sys2Proof.Machine
end

section
/-! SUPPORT. The DCT Video Block Encoder (spec/42_dct_video.md): the rules for its parts (the frame sizes, the entries
of a transform pass, the quantiser's range, the cut copy of the rate control), each followed by the statement it
settles: O25, O28, O29, O30, O31. -/

namespace Sys2Proof.Machine

theorem getD_map_range_of_lt {α : Type} (f : Nat → α) (d : α) {n k : Nat} (h : k < n) :
    ((List.range n).map f).getD k d = f k := by
  simp [List.getD_eq_getElem?_getD, h]

/-! ## VD.BEGIN (R191) -/

theorem exec_vdBegin {s : State} (hf : s.fault = false) : exec .vdBegin s = vdBegin Config.hw s :=
  unlessFaulted_ok hf _

theorem vdBegin_written (c : Config) {s : State} (hw : s.cfg.width.written = true) (hh : s.cfg.height.written = true) :
    vdBegin c s = if s.cfg.width.val = 0 ∨ s.cfg.width.val % 16 ≠ 0 then raise .videoDimension s.cfg.width.val s
      else if s.cfg.height.val = 0 ∨ s.cfg.height.val % 16 ≠ 0 then raise .videoDimension s.cfg.height.val s
      else .next (s.beginFrame c) := by
  rw [vdBegin, need_written hw, need_written hh]

/-- Settles O25: the two checks, width first, decide between the reset of the frame and the fault. -/
theorem vdBeginResetsTheFrame : Obligations.VdBeginResetsTheFrame := by
  intro s hf hw hh
  rw [exec_vdBegin hf, vdBegin_written Config.hw hw hh]
  refine ⟨fun hwidth hheight => ?_, fun hwidth => ?_, fun hwidth hheight => ?_⟩
  · rw [if_neg (by omega), if_neg (by omega)]; rfl
  · rw [if_pos (by omega)]; rfl
  · rw [if_neg (by omega), if_pos (by omega)]; rfl

/-! ## One pass of the transform (R198) -/

/-- The sum of one entry of a pass: row `j` of the matrix against row `i` of VD_SCALE. -/
def passSum (x : Nat → Nat → Int) (i j : Nat) : Int :=
  ((List.range 8).map fun k => x j k * Config.tableScale.getD (8 * i + k) 0).sum

/-- The rounding at the end of a pass: 14 fractional bits, halves upwards. -/
def passRound (z : Int) : Int := (z + 8192) >>> (14 : Nat)

/-- The statement of R198 shifts by an integer, the model by a natural number. -/
theorem shiftRight_int_eq_passRound (z : Int) : (z + 8192) >>> (14 : Int) = passRound z :=
  Int.shiftRight_natCast_right (z + 8192) 14

/-- A block is the row-major form of a matrix. -/
def HasEntries (y : Block) (x : Nat → Nat → Int) : Prop := ∀ i j, i < 8 → j < 8 → y.getD (8 * i + j) 0 = x i j

theorem passSum_congr {x y : Nat → Nat → Int} {i j : Nat} (h : ∀ k, k < 8 → x j k = y j k) :
    passSum x i j = passSum y i j := by
  refine congrArg List.sum (List.map_congr_left fun k hk => ?_)
  rw [h k (List.mem_range.1 hk)]

/-- A pass multiplies, rounds and transposes. -/
theorem HasEntries.dctPass {y : Block} {x : Nat → Nat → Int} (h : HasEntries y x) :
    HasEntries (dctPass Config.hw y) fun i j => passRound (passSum x i j) := by
  intro i j hi hj
  have row : (8 * i + j) / 8 = i := by omega
  have column : (8 * i + j) % 8 = j := by omega
  have half : (2 : Int) ^ (14 - 1) = 8192 := by norm_num
  rw [Machine.dctPass, getD_map_range_of_lt _ _ (by omega), row, column, hw_scale, hw_frac, half]
  exact congrArg passRound (passSum_congr (x := fun j k => y.getD (8 * j + k) 0) fun k hk => h j k hj hk)

/-! ## VD.DCT (R198) -/

theorem exec_vdDct (b : Nat) {s : State} (hf : s.fault = false) : exec (.vdDct b) s = vdDct Config.hw b s :=
  unlessFaulted_ok hf _

theorem vdDct_of_le (c : Config) {b : Nat} {s : State} (hb : b ≤ 5) (hw : s.mb.written = true) :
    vdDct c b s = .next { s with mb := .put (s.mb.val.set b (dctBlock c (s.mb.val.getD b []))) } := by
  rw [vdDct, if_neg (by omega), need_written hw]

theorem vdDct_of_lt (c : Config) {b : Nat} (s : State) (hb : 5 < b) : vdDct c b s = raise .addressRange b s := if_pos hb

theorem dctBlock_length (c : Config) (x : Block) : (dctBlock c x).length = 64 := by simp [dctBlock, dctScale]

/-- An entry of the transformed block: the second pass, and the two divisions. -/
theorem HasEntries.dctBlock {y : Block} {x : Nat → Nat → Int} (h : HasEntries y x) {u v : Nat} (hu : u < 8)
    (hv : v < 8) : let z := passRound (passSum (fun i j => passRound (passSum x i j)) u v)
    (dctBlock Config.hw y).getD (8 * u + v) 0 =
      Int.tdiv (if u = 0 ∧ v = 0 then Int.tdiv z Config.hw.dcDiv else z) Config.hw.allDiv := by
  have dc : 8 * u + v = 0 ↔ u = 0 ∧ v = 0 := by omega
  rw [Machine.dctBlock, dctScale, getD_map_range_of_lt _ _ (by omega)]
  simp only [h.dctPass.dctPass u v hu hv, dc]

/-- Settles O28: the block is replaced in a list of six, and its entries are those of the two passes. -/
theorem dctTransformsOneBlock : Obligations.DctTransformsOneBlock := by
  intro s b hf
  rw [exec_vdDct b hf]
  refine ⟨fun hb hw inv => ?_, fun hb => vdDct_of_lt _ s hb⟩
  obtain ⟨six, -⟩ := inv hw
  refine ⟨_, dctBlock Config.hw (s.mb.val.getD b []), vdDct_of_le _ hb hw, ?_, ?_, fun d hd => ?_, ?_,
    fun u v hu hv => ?_⟩
  · rw [List.length_set, six]
  · rw [List.getD_eq_getElem?_getD, List.getElem?_set_self (by omega), Option.getD_some]
  · rw [List.getD_eq_getElem?_getD, List.getElem?_set_ne hd.symm, ← List.getD_eq_getElem?_getD]
  · exact dctBlock_length _ _
  · have entries : HasEntries (s.mb.val.getD b []) fun j k => (s.mb.val.getD b []).getD (8 * j + k) 0 :=
      fun _ _ _ _ => rfl
    simp only [shiftRight_int_eq_passRound]
    exact entries.dctBlock hu hv

/-! ## The bounds of the passes (R201) -/

theorem natAbs_weightedSum_le {α : Type} (l : List α) (f g : α → Int) {B : Nat} (h : ∀ k ∈ l, (f k).natAbs ≤ B) :
    ((l.map fun k => f k * g k).sum).natAbs ≤ B * (l.map fun k => (g k).natAbs).sum := by
  induction l with
  | nil => simp
  | cons k l ih =>
    have head : (f k * g k).natAbs ≤ B * (g k).natAbs := by
      rw [Int.natAbs_mul]
      exact Nat.mul_le_mul_right _ (h k List.mem_cons_self)
    have tail := ih fun m hm => h m (List.mem_cons_of_mem k hm)
    rw [List.map_cons, List.sum_cons, List.map_cons, List.sum_cons, Nat.mul_add]
    exact (Int.natAbs_add_le _ _).trans (Nat.add_le_add head tail)

/-- No row of VD_SCALE weighs more than row 4. -/
theorem tableScale_rowWeight_le {i : Nat} (hi : i < 8) :
    ((List.range 8).map fun k => (Config.tableScale.getD (8 * i + k) 0).natAbs).sum ≤ 185364 := by
  revert i; decide

theorem natAbs_passSum_le {x : Nat → Nat → Int} {i j B : Nat} (hi : i < 8) (h : ∀ k, k < 8 → (x j k).natAbs ≤ B) :
    (passSum x i j).natAbs ≤ B * 185364 :=
  (natAbs_weightedSum_le (List.range 8) (x j) _ fun k hk => h k (List.mem_range.1 hk)).trans
    (Nat.mul_le_mul_left B (tableScale_rowWeight_le hi))

theorem natAbs_passRound_le {z : Int} {S R : Nat} (hz : z.natAbs ≤ S) (hS : S < 16384 * R + 8192) :
    (passRound z).natAbs ≤ R := by
  have quotient : passRound z = (z + 8192) / 16384 := by
    rw [passRound, Int.shiftRight_eq_div_pow]
    norm_num
  omega

/-- Settles O29: each pass multiplies a bound on the entries by the weight of a row, and the rounding divides it. -/
theorem dctPassesStayInBounds : Obligations.DctPassesStayInBounds := by
  intro x hx
  have input : HasEntries x fun j k => x.getD (8 * j + k) 0 := fun _ _ _ _ => rfl
  have sum1 : ∀ i j, i < 8 → j < 8 → (passSum (fun j k => x.getD (8 * j + k) 0) i j).natAbs ≤ 94906368 :=
    fun i j hi hj => natAbs_passSum_le (B := 512) hi fun k hk => by
      have := hx (8 * j + k) (by omega)
      omega
  have result1 : ∀ i j, i < 8 → j < 8 → ((dctPass Config.hw x).getD (8 * i + j) 0).natAbs ≤ 5793 := by
    intro i j hi hj
    rw [input.dctPass i j hi hj]
    exact natAbs_passRound_le (sum1 i j hi hj) (by omega)
  have middle : HasEntries (dctPass Config.hw x) fun j k => (dctPass Config.hw x).getD (8 * j + k) 0 :=
    fun _ _ _ _ => rfl
  have sum2 : ∀ i j, i < 8 → j < 8 →
      (passSum (fun j k => (dctPass Config.hw x).getD (8 * j + k) 0) i j).natAbs ≤ 1073813652 :=
    fun i j hi hj => natAbs_passSum_le (B := 5793) hi fun k hk => result1 j k hj hk
  refine fun i j hi hj => ⟨sum1 i j hi hj, result1 i j hi hj, sum2 i j hi hj, ?_⟩
  rw [middle.dctPass i j hi hj]
  exact natAbs_passRound_le (sum2 i j hi hj) (by omega)

/-! ## VD.QUANT (R202) -/

theorem exec_vdQuant (b m : Nat) {s : State} (hf : s.fault = false) :
    exec (.vdQuant b m) s = vdQuant Config.hw b m s := unlessFaulted_ok hf _

theorem vdQuant_of_inside (c : Config) {b m : Nat} {s : State} (hw : s.cfg.width.written = true)
    (hh : s.cfg.height.written = true) (hb : b ≤ 5) (hm : m < nmb s.cfg.width.val s.cfg.height.val)
    (hmb : s.mb.written = true) : vdQuant c b m s =
      .next { s with fb := Store.put s.fb (blockKey m b) (quantBlock c (s.mb.val.getD b [])) } := by
  rw [vdQuant, if_neg (by omega), needSize_written hw hh, if_neg (by omega), need_written hmb]

theorem vdQuant_of_outside (c : Config) {b m : Nat} {s : State} (hw : s.cfg.width.written = true)
    (hh : s.cfg.height.written = true) (h : ¬ (b ≤ 5 ∧ m < nmb s.cfg.width.val s.cfg.height.val)) :
    ∃ info, vdQuant c b m s = raise .addressRange info s := by
  rw [vdQuant, needSize_written hw hh]
  by_cases hb : 5 < b
  · exact ⟨b, if_pos hb⟩
  · exact ⟨m, by rw [if_neg hb, if_pos (by omega)]⟩

/-- The clamp of R202 brings a value into 10 signed bits, which then hold it exactly. -/
theorem toInt_ofInt_clamp (x : Int) : (BitVec.ofInt 10 (clamp x (-512) 511)).toInt = clamp x (-512) 511 := by
  have range : -512 ≤ clamp x (-512) 511 ∧ clamp x (-512) 511 ≤ 511 := by
    unfold clamp
    split_ifs <;> omega
  rw [BitVec.toInt_ofInt]
  exact Int.bmod_eq_of_le (by omega) (by omega)

theorem quantBlock_length (c : Config) (x : Block) : (quantBlock c x).length = 64 := by simp [quantBlock]

theorem quantBlock_getD (x : Block) {k : Nat} (hk : k < 64) : ((quantBlock Config.hw x).getD k 0).toInt =
    clamp (if (x.getD k 0).natAbs < Config.hw.zthresh k then 0
      else Int.tdiv (x.getD k 0) (Config.tableQuant.getD k 0)) (-512) 511 := by
  have divisor : Config.hw.quant.getD k 1 = Config.tableQuant.getD k 0 := by
    have inside : k < Config.tableQuant.length := hk
    rw [hw_quant, List.getD_eq_getElem _ _ inside, List.getD_eq_getElem _ _ inside]
  rw [quantBlock, getD_map_range_of_lt _ _ hk, quantCoef, divisor, hw_coefMin, hw_coefMax]
  exact toInt_ofInt_clamp _

/-- Settles O30: one write to the snapshot, of a block whose elements the clamp keeps exact. -/
theorem quantWritesTheSnapshot : Obligations.QuantWritesTheSnapshot := by
  intro s b m hf hw hh
  rw [exec_vdQuant b m hf]
  refine ⟨fun hb hm hmb => ?_, fun h => vdQuant_of_outside Config.hw hw hh h⟩
  exact ⟨_, quantBlock Config.hw (s.mb.val.getD b []), vdQuant_of_inside Config.hw hw hh hb hm hmb, rfl,
    Store.lookup_put_self _ _ _, fun key hkey => Store.lookup_put_other _ _ _ _ hkey, quantBlock_length _ _,
    fun k hk => quantBlock_getD _ hk⟩

/-! ## The cutoff of the rate control (R206, R207) -/

/-- Iteration 0 cuts no coefficient that is not 0 (R207 (a)). -/
theorem cutOf_zero_le (key : Nat) : cutOf Config.hw key 0 ≤ 1 := by
  unfold cutOf
  split
  · exact openCut_zero _ Config.openCutLast
  · exact openCut_zero _ Config.openCutLast

/-- The last iteration cuts every 10-bit value (R207 (c)). -/
theorem le_cutOf_last (key : Nat) : 513 ≤ cutOf Config.hw key Config.hw.cutLast := by
  unfold cutOf
  split
  · exact openCut_last _ (Nat.succ_pos _) le_rfl
  · exact openCut_last _ (Nat.succ_pos _) le_rfl

theorem cutCoef_eq (fb : Store QBlock) (t key k : Nat) : cutCoef fb t key k =
    if 0 < k ∧ (((Store.lookup fb key).getD []).getD k 0).toInt.natAbs < cutOf Config.hw key t then 0
    else ((Store.lookup fb key).getD []).getD k 0 := rfl

theorem cutCoef_zero (fb : Store QBlock) (key k : Nat) :
    cutCoef fb 0 key k = ((Store.lookup fb key).getD []).getD k 0 := by
  rw [cutCoef_eq]
  split_ifs with h
  · have cut := cutOf_zero_le key
    exact BitVec.toInt_inj.1 (BitVec.toInt_zero.trans (by omega))
  · rfl

theorem cutCoef_last (fb : Store QBlock) (key : Nat) {k : Nat} (hk : 0 < k) :
    cutCoef fb Config.hw.cutLast key k = 0 := by
  have cut := le_cutOf_last key
  have low := BitVec.le_toInt (((Store.lookup fb key).getD []).getD k 0)
  have high := BitVec.toInt_lt (x := ((Store.lookup fb key).getD []).getD k 0)
  rw [cutCoef_eq, if_pos ⟨hk, by omega⟩]

/-! ## The cut copy of a block and its count (R206) -/

/-- The cut copy of the block at an index of `FB` in iteration `t` (R206). -/
def cutCopy (fb : Store QBlock) (t key : Nat) : QBlock := cutBlock Config.hw key t ((Store.lookup fb key).getD [])

theorem cutCopy_length (fb : Store QBlock) (t key : Nat) : (cutCopy fb t key).length = 64 := by
  simp [cutCopy, cutBlock]

theorem cutCopy_getD (fb : Store QBlock) (t key : Nat) {k : Nat} (hk : k < 64) :
    (cutCopy fb t key).getD k 0 = cutCoef fb t key k := by
  rw [cutCopy, cutBlock, getD_map_range_of_lt _ _ hk, cutCoef_eq]
  simp only [Nat.pos_iff_ne_zero]

/-- `count(t)` counts the non-zero AC coefficients of the cut copies. -/
theorem cutCount_eq_sum_nonzeroAc (fb : Store QBlock) (n t : Nat) :
    cutCount fb n t = ((List.range (6 * n)).map fun key => nonzeroAc (cutCopy fb t key)).sum := by
  refine congrArg List.sum (List.map_congr_left fun key _ => congrArg List.length (List.filter_congr fun k hk => ?_))
  rw [cutCopy_getD fb t key (List.mem_range.1 hk)]

theorem cutCount_last (fb : Store QBlock) (n : Nat) : cutCount fb n Config.hw.cutLast = 0 := by
  refine List.sum_eq_zero fun a ha => ?_
  obtain ⟨key, -, rfl⟩ := List.mem_map.1 ha
  refine List.length_eq_zero_iff.2 (List.filter_eq_nil_iff.2 fun k _ hk => ?_)
  obtain ⟨pos, nonzero⟩ : 0 < k ∧ cutCoef fb Config.hw.cutLast key k ≠ 0 := by simpa using hk
  exact nonzero (cutCoef_last fb key pos)

theorem acCount_eq_nonzeroAc (q : QBlock) : acCount q = nonzeroAc q := by
  simp only [acCount, nonzeroAc, Nat.pos_iff_ne_zero, Bool.decide_and]

/-- The cut copy of a frame, block by block. -/
theorem cutFrame_snapshot (fb : Store QBlock) (n t : Nat) :
    cutFrame Config.hw t (snapshot fb n) = (List.range (6 * n)).map (cutCopy fb t) := by
  refine List.ext_getElem (by simp [cutFrame, snapshot]) fun key _ _ => ?_
  simp [cutFrame, snapshot, cutCopy]

theorem frameCount_cutFrame_snapshot (fb : Store QBlock) (n t : Nat) :
    frameCount (cutFrame Config.hw t (snapshot fb n)) = cutCount fb n t := by
  rw [cutFrame_snapshot, frameCount, List.map_map, cutCount_eq_sum_nonzeroAc]
  exact congrArg List.sum (List.map_congr_left fun key _ => acCount_eq_nonzeroAc _)

/-! ## VD.RATE (R206) -/

/-- The loop ends at the first iteration from `t` on that is within the budget, if its fuel reaches one. -/
theorem rateLoop_first (c : Config) (frame : List QBlock) (fuel t : Nat)
    (h : frameCount (cutFrame c (t + fuel) frame) ≤ c.budget) :
    frameCount (cutFrame c (rateLoop c frame fuel t) frame) ≤ c.budget ∧
      ∀ u, t ≤ u → u < rateLoop c frame fuel t → c.budget < frameCount (cutFrame c u frame) := by
  induction fuel generalizing t with
  | zero => exact ⟨h, fun u htu hut => absurd hut (not_lt.2 htu)⟩
  | succ fuel ih =>
    rw [rateLoop]
    split_ifs with fits
    · exact ⟨fits, fun u htu hut => absurd hut (not_lt.2 htu)⟩
    · obtain ⟨within, exceeds⟩ := ih (t + 1) (by rwa [Nat.add_right_comm])
      refine ⟨within, fun u htu hut => ?_⟩
      rcases Nat.eq_or_lt_of_le htu with rfl | hlt
      · exact not_le.1 fits
      · exact exceeds u hlt hut

/-- The iteration VD.RATE takes (R206). -/
def rateIteration (fb : Store QBlock) (n : Nat) : Nat := rateLoop Config.hw (snapshot fb n) Config.hw.cutLast 0

theorem rateIteration_first (fb : Store QBlock) (n : Nat) : cutCount fb n (rateIteration fb n) ≤ 6500 ∧
    ∀ u, u < rateIteration fb n → 6500 < cutCount fb n u := by
  have last : frameCount (cutFrame Config.hw (0 + Config.hw.cutLast) (snapshot fb n)) ≤ Config.hw.budget := by
    rw [Nat.zero_add, frameCount_cutFrame_snapshot, cutCount_last]
    exact Nat.zero_le _
  obtain ⟨within, exceeds⟩ := rateLoop_first Config.hw (snapshot fb n) Config.hw.cutLast 0 last
  simp only [frameCount_cutFrame_snapshot] at within exceeds
  exact ⟨within, fun u hu => exceeds u (Nat.zero_le u) hu⟩

theorem rateResult_eq (s : State) : rateResult Config.hw s =
    (List.range (6 * nmb s.cfg.width.val s.cfg.height.val)).map
      (cutCopy s.fb (rateIteration s.fb (nmb s.cfg.width.val s.cfg.height.val))) := cutFrame_snapshot _ _ _

theorem exec_vdRate {s : State} (hf : s.fault = false) (hw : s.cfg.width.written = true)
    (hh : s.cfg.height.written = true)
    (hfb : ∀ key, key < 6 * nmb s.cfg.width.val s.cfg.height.val → (Store.lookup s.fb key).isSome = true) :
    exec .vdRate s = .next { s with fbc := Store.putList s.fbc 0 (rateResult Config.hw s) } := by
  have written : snapshotWritten s.fb (nmb s.cfg.width.val s.cfg.height.val) = true :=
    List.all_eq_true.2 fun key hkey => hfb key (List.mem_range.1 hkey)
  refine (unlessFaulted_ok hf _).trans ?_
  rw [vdRate, needSize_written hw hh, if_pos written]
  rfl

theorem lookup_putList_range {α : Type} (st : Store α) (f : Nat → α) (n key : Nat) :
    Store.lookup (Store.putList st 0 ((List.range n).map f)) key =
      if key < n then some (f key) else Store.lookup st key := by
  rw [Store.lookup_putList]
  by_cases h : key < n <;> simp [h]

/-- Settles O31: the loop's first iteration within the budget, and `FBC` block by block. -/
theorem rateControlMeetsTheBudget : Obligations.RateControlMeetsTheBudget := by
  intro s hf hw hh n hfb
  obtain ⟨within, exceeds⟩ := rateIteration_first s.fb n
  have copied : ∀ key, Store.lookup (Store.putList s.fbc 0 (rateResult Config.hw s)) key =
      if key < 6 * n then some (cutCopy s.fb (rateIteration s.fb n) key) else Store.lookup s.fbc key := fun key => by
    rw [rateResult_eq]
    exact lookup_putList_range _ _ _ _
  refine ⟨_, rateIteration s.fb n, exec_vdRate hf hw hh hfb, rfl, within, exceeds, fun key hkey => ?_, fun key hkey => ?_,
    ?_, fun first key k hkey hk => ?_⟩
  · exact ⟨_, (copied key).trans (if_pos hkey), cutCopy_length _ _ _, fun k hk => cutCopy_getD _ _ _ hk⟩
  · exact (copied key).trans (if_neg (not_lt.2 hkey))
  · rw [cutCount_eq_sum_nonzeroAc] at within
    refine le_of_eq_of_le (congrArg List.sum (List.map_congr_left fun key hkey => ?_)) within
    rw [copied, if_pos (List.mem_range.1 hkey), Option.getD_some]
  · rw [copied, if_pos hkey, Option.getD_some, cutCopy_getD _ _ _ hk, first, cutCoef_zero]

end Sys2Proof.Machine
end

section
/-! SUPPORT. The Sector Assembler (spec/43_sector.md): the rules for its parts (a write to `SEC`, the bytes of the
subheader, of the stamp and of a 32-bit field), each followed by the statement it settles: O38, O39, O40, O45, O46. -/

namespace Sys2Proof.Machine

/-! ## A write to `SEC` -/

section
variable (s : State) {a i : Nat} {bs : List Byte}

theorem State.read_putSec_inside (ha : a ≤ i) (hi : i < a + bs.length) :
    (s.putSec a bs).sec.read? i = bs[i - a]? := (Memory.read_writeList s.sec a bs i).trans (if_pos ⟨ha, hi⟩)

theorem State.read_putSec_zero (h : i < bs.length) : (s.putSec 0 bs).sec.read? i = bs[i]? :=
  s.read_putSec_inside (Nat.zero_le i) (by omega)

theorem State.read_putSec_outside (h : i < a ∨ a + bs.length ≤ i) : (s.putSec a bs).sec.read? i = s.sec.read? i :=
  (Memory.read_writeList s.sec a bs i).trans (if_neg (by omega))

/-- Storing the same bytes at the same place again changes no byte. -/
theorem State.read_putSec_putSec (a : Nat) (bs : List Byte) (i : Nat) :
    ((s.putSec a bs).putSec a bs).sec.read? i = (s.putSec a bs).sec.read? i := by
  by_cases h : a ≤ i ∧ i < a + bs.length
  · obtain ⟨ha, hi⟩ := h
    rw [State.read_putSec_inside _ ha hi, State.read_putSec_inside _ ha hi]
  · exact State.read_putSec_outside _ (by omega)

end

theorem bytesOf_getD (read : Nat → Byte) (a : Nat) {n i : Nat} (h : i < n) :
    (bytesOf read a n).getD i 0 = read (a + i) :=
  getD_map_range_of_lt (fun i => read (a + i)) 0 h

/-! ## SC.INIT (R241) -/

theorem byteField_of_le {value : Nat} (h : value ≤ 255) : byteField value = BitVec.ofNat 8 value := if_pos (by omega)

section
variable (file channel submode coding : Nat)

theorem initBytes_length : (initBytes file channel submode coding).length = 24 := rfl

theorem initBytes_header {i : Nat} (h : i < 16) : (initBytes file channel submode coding)[i]? = some 0 := by
  rw [initBytes, List.append_assoc, List.getElem?_append_left (by simpa using h), List.getElem?_replicate, if_pos h]

/-- Byte `j` of the subheader stands in both copies, at 0x010 and at 0x014. -/
theorem initBytes_copies {j a : Nat} (hj : j < 4) (ha : a = 0x010 + j ∨ a = 0x014 + j) :
    (initBytes file channel submode coding)[a]? = (subheader file channel submode coding)[j]? := by
  have first : (List.replicate 16 (0 : Byte) ++ subheader file channel submode coding).length = 0x014 := rfl
  rcases ha with rfl | rfl
  · rw [initBytes, List.getElem?_append_left (by omega), List.getElem?_append_right (by simp)]
    exact congrArg _ (Nat.add_sub_cancel_left 0x010 j)
  · rw [initBytes, List.getElem?_append_right (by omega), first, Nat.add_sub_cancel_left]

theorem State.read_putSec_initBytes (s : State) {j a : Nat} (hj : j < 4) (ha : a = 0x010 + j ∨ a = 0x014 + j) :
    (s.putSec 0x000 (initBytes file channel submode coding)).sec.read? a =
      (subheader file channel submode coding)[j]? := by
  rw [State.read_putSec_zero _ (by rw [initBytes_length]; omega), initBytes_copies _ _ _ _ hj ha]

end

theorem exec_scInit (submode coding : Nat) {s : State} (hf : s.fault = false) :
    exec (.scInit submode coding) s = scInit submode coding s := unlessFaulted_ok hf _

theorem scInit_of_bytes {submode coding : Nat} {s : State} (hs : submode ≤ 0xFF) (hc : coding ≤ 0xFF)
    (hfile : s.cfg.file.written = true) (hch : s.cfg.channel.written = true) : scInit submode coding s =
      .next (s.putSec 0x000 (initBytes s.cfg.file.val s.cfg.channel.val submode coding)) := by
  rw [scInit, if_neg (by omega), if_neg (by omega), need_written hfile, need_written hch]

theorem scInit_of_wide {submode coding : Nat} (s : State) (h : 0xFF < submode ∨ 0xFF < coding) :
    ∃ info, scInit submode coding s = raise .addressRange info s := by
  by_cases hs : 0xFF < submode
  · exact ⟨submode, if_pos hs⟩
  · exact ⟨coding, by rw [scInit, if_neg hs, if_pos (by omega)]⟩

/-- Settles O38: one write of 24 bytes, whose last eight are the subheader twice. -/
theorem initWritesTheSubheaderTwice : Obligations.InitWritesTheSubheaderTwice := by
  intro s submode coding hf hfile hch
  rw [exec_scInit submode coding hf]
  refine ⟨fun hs hc => ?_, fun h => scInit_of_wide s h⟩
  refine ⟨_, scInit_of_bytes hs hc hfile hch, rfl, fun a ha => ?_, fun a ha => ?_, fun a ha => ?_,
    fun hv a ha => ?_, fun hv a ha => ?_, fun a ha => ?_⟩
  · rw [State.read_putSec_zero _ (by rw [initBytes_length]; omega), initBytes_header _ _ _ _ ha]
  · exact (State.read_putSec_initBytes _ _ _ _ s (j := 2) (by decide) ha).trans (congrArg some (byteField_of_le hs))
  · exact (State.read_putSec_initBytes _ _ _ _ s (j := 3) (by decide) ha).trans (congrArg some (byteField_of_le hc))
  · exact (State.read_putSec_initBytes _ _ _ _ s (j := 0) (by decide) ha).trans (congrArg some (byteField_of_le hv))
  · exact (State.read_putSec_initBytes _ _ _ _ s (j := 1) (by decide) ha).trans (congrArg some (byteField_of_le hv))
  · exact s.read_putSec_outside (.inr (by rwa [initBytes_length]))

/-! ## SC.STAMP (R118, R243) -/

/-- The two digits do not overlap, so the OR of the model is the sum of R118. -/
theorem bcd_eq_bcdByte (v : Nat) : bcd v = bcdByte v := by
  have low : v % 10 < 2 ^ 4 := by omega
  rw [bcd, bcdByte, ← Nat.shiftLeft_add_eq_or_of_lt low, Nat.shiftLeft_eq, Nat.mul_comm]

theorem stampBytes_eq_headerBytes (base a : Nat) : stampBytes (Config.withBase base) a = headerBytes a := by
  rw [stampBytes, withBase_sync, withBase_mode, hw_sync, hw_mode]
  simp only [bcd_eq_bcdByte]
  rfl

theorem headerBytes_length (a : Nat) : (headerBytes a).length = 16 := rfl

theorem headerBytes_sync (a : Nat) {i : Nat} (h : i < 12) :
    (headerBytes a)[i]? = some (if i = 0 ∨ i = 11 then 0x00 else 0xFF) := by
  have pattern : ∀ i, i < 12 → Config.tableSync[i]? = some (if i = 0 ∨ i = 11 then (0x00 : Byte) else 0xFF) := by
    decide
  have front : (headerBytes a)[i]? = Config.tableSync[i]? := List.getElem?_append_left (l₁ := Config.tableSync) h
  exact front.trans (pattern i h)

theorem exec_scStamp (lba : Nat) {s : State} (hf : s.fault = false) : exec (.scStamp lba) s = scStamp Config.hw lba s :=
  unlessFaulted_ok hf _

theorem scStamp_of_late {c : Config} {lba : Nat} (s : State) (h : 99 < (lba + c.lbaBase) / 4500) :
    scStamp c lba s = raise .addressRange lba s := if_pos h

theorem scStamp_of_minute {base lba : Nat} (s : State) (h : (lba + base) / 4500 ≤ 99) :
    scStamp (Config.withBase base) lba s = .next (s.putSec 0x000 (headerBytes (lba + base))) := by
  rw [scStamp, withBase_lbaBase, if_neg (by omega), stampBytes_eq_headerBytes]

theorem scStamp_answers (c : Config) (lba : Nat) (s : State) : ∃ t, scStamp c lba s = .next t := by
  unfold scStamp
  split
  · exact ⟨_, rfl⟩
  · exact ⟨_, rfl⟩

/-- Settles O39: the minute decides between one write of 16 bytes and the fault. -/
theorem stampWritesBcdTime : Obligations.StampWritesBcdTime := by
  intro s lba base hf a bcdOf run
  rw [exec_scStamp lba hf]
  refine ⟨fun h => by rw [← withBase_hw, ← h], scStamp_answers _ lba s, fun hmin => ?_,
    fun hmin => scStamp_of_late s hmin⟩
  have inside : ∀ {i : Nat}, i < 0x010 → (s.putSec 0x000 (headerBytes a)).sec.read? i = (headerBytes a)[i]? :=
    fun hi => s.read_putSec_zero hi
  refine ⟨_, scStamp_of_minute s hmin, rfl, fun i hi => ?_, inside (by decide), inside (by decide), inside (by decide),
    inside (by decide), fun i hi => ?_⟩
  · exact (inside (by omega)).trans (headerBytes_sync a hi)
  · exact s.read_putSec_outside (.inr (by rwa [headerBytes_length]))

/-! ## SC.EDC and SC.PQ before SC.TABLES (R246) -/

theorem exec_scEdc (form : Nat) {s : State} (hf : s.fault = false) : exec (.scEdc form) s = scEdc Config.hw form s :=
  unlessFaulted_ok hf _

theorem exec_scPq {s : State} (hf : s.fault = false) : exec .scPq s = scPq Config.hw s := unlessFaulted_ok hf _

theorem scEdc_of_unbuilt (c : Config) (form : Nat) {s : State} (hb : s.tbuilt = false) :
    scEdc c form s = raise .tablesNotBuilt 0x33 s := if_pos hb

theorem scPq_of_unbuilt (c : Config) {s : State} (hb : s.tbuilt = false) :
    scPq c s = raise .tablesNotBuilt 0x34 s := if_pos hb

/-- Settles O45: both commands check the mark before anything else. -/
theorem tablesNotBuiltFaults : Obligations.TablesNotBuiltFaults := by
  intro s form hf hb
  rw [exec_scEdc form hf, exec_scPq hf]
  exact ⟨scEdc_of_unbuilt Config.hw form hb, scPq_of_unbuilt Config.hw hb⟩

/-! ## SC.EDC (R248) -/

theorem le32_getElem? (e : BitVec 32) {i : Nat} (h : i < 4) : (le32 e)[i]? = some (e.extractLsb' (8 * i) 8) := by
  match i, h with
  | 0, _ => exact congrArg some (BitVec.setWidth_ushiftRight_eq_extractLsb (w' := 0) (b := e))
  | 1, _ => exact congrArg some BitVec.setWidth_ushiftRight_eq_extractLsb
  | 2, _ => exact congrArg some BitVec.setWidth_ushiftRight_eq_extractLsb
  | 3, _ => exact congrArg some BitVec.setWidth_ushiftRight_eq_extractLsb

theorem scEdc_of_other_form (c : Config) {form : Nat} {s : State} (hb : s.tbuilt = true) (h1 : form ≠ 1)
    (h2 : form ≠ 2) : scEdc c form s = raise .addressRange form s := by
  rw [scEdc, if_neg (by simp [hb]), if_pos ⟨h1, h2⟩]

theorem scEdc_of_form (c : Config) {form : Nat} {s : State} (hb : s.tbuilt = true) (hform : form = 1 ∨ form = 2)
    (hsec : s.sec.cells ≠ []) :
    scEdc c form s = .next (s.putSec (0x010 + edcLength form) (le32 (sectorEdc c form s))) := by
  rw [scEdc, if_neg (by simp [hb]), if_neg (by omega), needSec_written hsec]

/-- The checksum does not cover the field it is stored in. -/
theorem sectorEdc_putSec (c : Config) (form : Nat) (s : State) (bs : List Byte) :
    sectorEdc c form (s.putSec (0x010 + edcLength form) bs) = sectorEdc c form s := by
  refine congrArg (edc c) (List.map_congr_left fun i hi => ?_)
  have covered : i < edcLength form := List.mem_range.1 hi
  rw [State.secByte_putSec, if_neg (by omega)]

/-- A second SC.EDC stores the bytes that stand there already. -/
theorem scEdc_again (c : Config) {form : Nat} {s : State} (hb : s.tbuilt = true) (hform : form = 1 ∨ form = 2) :
    let t := s.putSec (0x010 + edcLength form) (le32 (sectorEdc c form s))
    scEdc c form t = .next (t.putSec (0x010 + edcLength form) (le32 (sectorEdc c form s))) := by
  intro t
  have written : t.sec.cells ≠ [] := State.putSec_written _ _ _ (List.cons_ne_nil _ _)
  rw [scEdc_of_form c (s := t) hb hform written, sectorEdc_putSec]

/-- Settles O40: one write of four bytes outside the range they are computed from. -/
theorem edcIsStoredAfterItsRange : Obligations.EdcIsStoredAfterItsRange := by
  intro s form hf fail
  rw [exec_scEdc form hf]
  refine ⟨fun hb hform hsec => ?_, scEdc_of_unbuilt Config.hw form, scEdc_of_other_form Config.hw⟩
  refine ⟨_, scEdc_of_form Config.hw hb hform hsec, rfl, fun i hi => ?_, fun a ha => ?_, _,
    (exec_scEdc form (s := s.putSec _ _) hf).trans (scEdc_again Config.hw hb hform), State.read_putSec_putSec s _ _⟩
  · refine (State.read_putSec_inside s (Nat.le_add_right _ i) (Nat.add_lt_add_left hi _)).trans ?_
    rw [Nat.add_sub_cancel_left]
    exact le32_getElem? _ hi
  · exact s.read_putSec_outside ha

/-! ## SC.EMIT (R259) -/

theorem exec_scEmit (size : Nat) {s : State} (hf : s.fault = false) : exec (.scEmit size) s = scEmit Config.hw size s :=
  unlessFaulted_ok hf _

theorem scEmit_of_size {size : Nat} {s : State} (hsec : s.sec.cells ≠ []) (h : size = 2352 ∨ size = 2336) :
    scEmit Config.hw size s = .next (s.emit (bytesOf s.secByte (2352 - size) size)) := by
  rw [scEmit, hw_sectorBytes]
  rcases h with rfl | rfl
  · rw [if_pos rfl, needSec_written hsec]
  · rw [if_neg (by decide), if_pos rfl, needSec_written hsec]

theorem scEmit_of_other_size {size : Nat} (s : State) (h1 : size ≠ 2352) (h2 : size ≠ 2336) :
    scEmit Config.hw size s = raise .addressRange size s := by
  rw [scEmit, hw_sectorBytes, if_neg h1, if_neg h2]

/-- Settles O46: either size ends where the sector ends, so both are one run of bytes. -/
theorem emitAppendsTheSector : Obligations.EmitAppendsTheSector := by
  intro s size hf hsec
  rw [exec_scEmit size hf]
  refine ⟨fun h => ?_, scEmit_of_other_size s⟩
  exact ⟨_, scEmit_of_size hsec h, bytesOf_length _ _ _, fun i hi => bytesOf_getD s.secByte _ hi⟩

end Sys2Proof.Machine
end

section
/-! SUPPORT. The decoder and the port (spec/30_encoding.md, spec/60_exceptions.md): the rules for one command of the
host, each followed by the statement it settles: O1, O2, O3, O4, O5, O6, O7. -/

namespace Sys2Proof.Machine

/-! ## The decoder (R90 to R92) -/

/-- The map of R91 read backwards: only the command of an instruction names it. -/
theorem instrOf_eq_some {op : Nat} {operands : List Nat} {i : Instr} (h : instrOf op operands = some i) :
    op = (encode i).opcode.toNat ∧ operands = (encode i).operands := by
  unfold instrOf at h
  split at h
  case h_29 => cases h
  all_goals
    injection h with h
    subst h
    exact ⟨rfl, rfl⟩

theorem decode_encode (i : Instr) : decode (encode i) = .ok i := by cases i <;> rfl

theorem decode_eq_ok {cmd : Command} {i : Instr} (h : decode cmd = .ok i) :
    instrOf cmd.opcode.toNat cmd.operands = some i := by
  unfold decode at h
  split at h
  · rename_i j hj
    injection h with h
    rw [hj, h]
  · split at h <;> cases h

/-- Settles O1: the decoder inverts the encoder, and the map of R91 names each instruction once. -/
theorem decodeInvertsEncode : Obligations.DecodeInvertsEncode := by
  intro cmd i
  refine ⟨fun h => ?_, fun h => h ▸ decode_encode i⟩
  obtain ⟨hop, hoperands⟩ := instrOf_eq_some (decode_eq_ok h)
  obtain ⟨op, operands⟩ := cmd
  exact congrArg₂ Command.mk (BitVec.eq_of_toNat_eq hop) hoperands

/-- Settles O2: the words evaluate. -/
theorem opcodeMapWordsDecode : Obligations.OpcodeMapWordsDecode :=
  ⟨rfl, rfl, rfl, rfl, rfl, rfl, rfl, rfl⟩

/-- The opcodes of R91. -/
def legalOpcodes : List Nat :=
  [0x01, 0x02, 0x10, 0x11, 0x12, 0x13, 0x20, 0x21, 0x22, 0x23, 0x24, 0x25, 0x26, 0x27, 0x28, 0x30, 0x31,
    0x32, 0x33, 0x34, 0x35, 0x40, 0x41, 0x42, 0x43, 0x44, 0xF0, 0xF1]

theorem encode_opcode_legal (i : Instr) : (encode i).opcode.toNat ∈ legalOpcodes := by cases i <;> simp [encode, legalOpcodes]

theorem operandCount_of_legal : ∀ op ∈ legalOpcodes, operandCount op ≠ none := by decide

theorem operandCount_of_illegal {op : Nat} (h : op ∉ legalOpcodes) : operandCount op = none := by
  unfold operandCount
  split
  case h_29 => rfl
  all_goals exact absurd (by decide) h

theorem decode_of_illegal {cmd : Command} (h : cmd.opcode.toNat ∉ legalOpcodes) :
    decode cmd = .error (.illegalOpcode cmd.opcode.toNat) := by
  have unnamed : instrOf cmd.opcode.toNat cmd.operands = none := by
    refine Option.eq_none_iff_forall_ne_some.2 fun i hi => h ?_
    rw [(instrOf_eq_some hi).1]
    exact encode_opcode_legal i
  unfold decode
  rw [unnamed, operandCount_of_illegal h]

theorem decode_of_legal {cmd : Command} (h : cmd.opcode.toNat ∈ legalOpcodes) (op : Nat) :
    decode cmd ≠ .error (.illegalOpcode op) := by
  unfold decode
  intro e
  split at e
  · cases e
  · split at e
    · cases e
    · exact operandCount_of_legal _ h ‹_›

/-! ## One step (R19, R81) -/

theorem step_command {s : State} {cmd : Command} {rest : List HostMove} (h : s.moves = .command cmd :: rest) :
    step s = runCommand cmd { s with moves := rest } := by
  unfold step State.fetch
  rw [h]
  rfl

theorem runCommand_ok {cmd : Command} {i : Instr} (h : decode cmd = .ok i) (s : State) :
    runCommand cmd s = exec i s := by
  unfold runCommand
  rw [h]

theorem runCommand_illegal {cmd : Command} {op : Nat} (h : decode cmd = .error (.illegalOpcode op)) (s : State) :
    runCommand cmd s = unlessFaulted s (raise .illegalCommand op s) := by
  unfold runCommand
  rw [h]

theorem step_withFetchWord (s : State) (n w : Nat) : step (s.withFetchWord n w) = runCommand (tableCommand n w) s := rfl

theorem decodeTableWord_eq_some {n w : Nat} {i : Instr} (h : decodeTableWord n w = some i) :
    decode (tableCommand n w) = .ok i := by
  unfold decodeTableWord at h
  split at h
  · cases e : decode (tableCommand n w) with
    | error _ => rw [e] at h; cases h
    | ok j => rw [e] at h; injection h with h; rw [h]
  · cases h

/-- Settles O3: the oldest action is taken and its command decoded. -/
theorem stepRunsTheDecodedCommand : Obligations.StepRunsTheDecodedCommand :=
  ⟨fun _ _ _ _ hm hd => (step_command hm).trans (runCommand_ok hd _),
    fun s w _ h => (step_withFetchWord s 8 w).trans (runCommand_ok (decodeTableWord_eq_some h) s)⟩

/-- Settles O4: outside the map neither the instruction nor the operand count is known. -/
theorem illegalOpcodeFaults : Obligations.IllegalOpcodeFaults := by
  intro s cmd rest hf hm legal
  refine ⟨fun h => ?_, fun h op => decode_of_legal h op⟩
  rw [step_command hm, runCommand_illegal (decode_of_illegal h)]
  exact unlessFaulted_ok (s := { s with moves := rest }) hf _

/-! ## The faulted block (R325, R326, R328) -/

theorem exec_faulted {i : Instr} {s : State} (hi : i ≠ .sysReset) (hf : s.fault = true) : exec i s = .next s := by
  cases i with
  | sysReset => exact absurd rfl hi
  | _ => exact unlessFaulted_faulted hf _

theorem runCommand_faulted {cmd : Command} {s : State} (hd : decode cmd ≠ .ok .sysReset) (hf : s.fault = true) :
    runCommand cmd s = .next s := by
  unfold runCommand
  split
  · rename_i i hi
    exact exec_faulted (fun e => hd (e ▸ hi)) hf
  · exact unlessFaulted_faulted hf _
  · exact unlessFaulted_faulted hf _

/-- Settles O5: no command but SYS.RESET gets past the check of `FAULT`. -/
theorem faultedBlockRefusesCommands : Obligations.FaultedBlockRefusesCommands := by
  intro s cmd rest hf hm hd
  rw [step_command hm]
  exact runCommand_faulted hd hf

theorem hostAct_fault {m : HostMove} {s t : State} (hm : ∀ c, m ≠ .command c) (h : hostAct m s = .next t) :
    t.fault = s.fault := by
  obtain ⟨_, _, _, _, _, _, rfl⟩ := hostAct_frame hm h
  rfl

/-- Settles O7: from a faulted state every other action leaves `FAULT` as it is. -/
theorem onlyResetClearsFault : Obligations.OnlyResetClearsFault := by
  intro s t hf h ht
  rcases step_cases h with ⟨-, rfl⟩ | ⟨m, rest, hm, hact⟩
  · rw [hf] at ht; cases ht
  · cases m with
    | command cmd =>
      by_cases hd : decode cmd = .ok .sysReset
      · exact ⟨rest, by rw [hm, (decodeInvertsEncode cmd .sysReset).1 hd]⟩
      · have stays : runCommand cmd { s with moves := rest } = .next { s with moves := rest } :=
          runCommand_faulted hd hf
        have hact : runCommand cmd { s with moves := rest } = .next t := hact
        rw [stays] at hact
        injection hact with hact
        subst hact
        exact absurd ht (by simp [hf])
    | _ =>
      have kept := hostAct_fault (by simp) hact
      simp [hf, ht] at kept

/-! ## The fault of a simple command (R323, R325) -/

theorem Cause.code_range (x : Cause) : 1 ≤ x.code ∧ x.code ≤ 11 := by cases x <;> decide

/-- The clean answer of a command cannot carry the fault. -/
theorem Faulted.of_or {p : Prop} {s t : State} (h : Faulted s t ∨ p) (hp : p → t.fault = s.fault)
    (hs : s.fault = false) (ht : t.fault = true) : Faulted s t := by
  rcases h with h | h
  · exact h
  · have := hp h
    rw [hs, ht] at this
    cases this

theorem encoded_fault (c : Config) (t : Target) (ch base stride fc d ds dp : Nat) (s : State) :
    (s.encoded c t ch base stride fc d ds dp).fault = s.fault := by
  obtain ⟨_, _, _, _, _, _, _, _, _, h⟩ := encoded_frame c t ch base stride fc d ds dp s
  rw [h]

/-- A simple command that ends in a fault took it in the state it began in. -/
theorem exec_simple_faulted {i : Instr} {s t : State} (hi : i.simple = true) (hs : s.fault = false)
    (h : exec i s = .next t) (ht : t.fault = true) : Faulted s t := by
  have ran : ∀ {r : Result}, exec i s = unlessFaulted s r → r = .next t := fun e => by
    rwa [e, unlessFaulted_ok hs] at h
  cases i with
  | bwWrite =>
    refine .of_or (bwWrite_eq_next hw_sizes (ran rfl)) ?_ hs ht
    rintro ⟨-, -, ⟨-, rfl⟩ | ⟨-, -, rfl⟩⟩ <;> rfl
  | bwFlush =>
    refine .of_or (bwFlush_eq_next hw_sizes (ran rfl)) ?_ hs ht
    rintro (⟨-, -, rfl⟩ | ⟨-, rfl⟩) <;> rfl
  | adReset => exact .of_or (adReset_eq_next (ran rfl)) (by rintro ⟨-, rfl⟩; rfl) hs ht
  | adMinshift => exact .of_or (adMinshift_eq_next hw_sizes (ran rfl)) (by rintro ⟨-, -, -, rfl⟩; rfl) hs ht
  | adTrial => exact .of_or (adTrial_eq_next hw_sizes (ran rfl)) (by rintro ⟨-, -, -, -, rfl⟩; rfl) hs ht
  | adEncode =>
    exact .of_or (adEncode_eq_next hw_sizes (ran rfl)) (by rintro ⟨-, -, rfl⟩; exact encoded_fault _ _ _ _ _ _ _ _ _ _) hs ht
  | vdBegin => exact .of_or (vdBegin_eq_next hw_sizes (ran rfl)) (by rintro ⟨-, -, -, -, -, -, rfl⟩; rfl) hs ht
  | vdCsc => exact .of_or (vdCsc_eq_next (ran rfl)) (by rintro ⟨-, -, -, rfl⟩; rfl) hs ht
  | vdDct => exact .of_or (vdDct_eq_next (ran rfl)) (by rintro ⟨-, -, rfl⟩; rfl) hs ht
  | vdQuant => exact .of_or (vdQuant_eq_next (ran rfl)) (by rintro ⟨-, -, -, rfl⟩; rfl) hs ht
  | vdRate => exact .of_or (.inr (vdRate_eq_next (ran rfl))) (by rintro ⟨-, rfl⟩; rfl) hs ht
  | vdPack =>
    exact .of_or (vdPack_eq_next (ran rfl)) (by rintro ⟨-, -, _, -, -, hf⟩; rw [hf, hs]) hs ht
  | vdEnd => exact .of_or (vdEnd_eq_next (ran rfl)) (by rintro ⟨hf, -⟩; rw [hf, hs]) hs ht
  | vdDemux => exact .of_or (vdDemux_eq_next hw_sizes (ran rfl)) (by rintro ⟨-, rfl⟩; rfl) hs ht
  | scTables => exact .of_or (.inr (scTables_eq_next (ran rfl))) (by rintro rfl; rfl) hs ht
  | scInit => exact .of_or (scInit_eq_next (ran rfl)) (by rintro ⟨-, -, -, -, rfl⟩; rfl) hs ht
  | scStamp => exact .of_or (scStamp_eq_next (ran rfl)) (by rintro ⟨-, rfl⟩; rfl) hs ht
  | scEdc => exact .of_or (scEdc_eq_next (ran rfl)) (by rintro ⟨-, -, -, rfl⟩; rfl) hs ht
  | scPq => exact .of_or (scPq_eq_next (ran rfl)) (by rintro ⟨-, -, rfl⟩; rfl) hs ht
  | scEmit =>
    refine .of_or (scEmit_eq_next hw_sizes (ran rfl)) ?_ hs ht
    rintro ⟨-, ⟨-, rfl⟩ | ⟨-, rfl⟩⟩ <;> rfl
  | sysReset => injection h with h; subst h; cases ht
  | sysValidate =>
    obtain ⟨o, ho⟩ := cfgValid_eq_next (ran rfl)
    cases o with
    | some k => exact .of_raise ho
    | none => injection ho with ho; subst ho; rw [hs] at ht; cases ht
  | vdFrame | mxXa | mxSpu | mxSpui | mxStr | mxIso2raw => cases hi

/-- Settles O6: fault entry writes the four registers, with the code of one of the eleven causes. -/
theorem simpleFaultsArePrecise : Obligations.SimpleFaultsArePrecise := by
  intro i s t hi hs h ht
  obtain ⟨cause, info, rfl⟩ := exec_simple_faulted hi hs h ht
  exact ⟨cause.code, info, cause.code_range.1, cause.code_range.2, rfl⟩

end Sys2Proof.Machine
end

section
/-! SUPPORT. The invariants of the whole machine (spec/10_state.md, spec/20_memory.md, spec/44_stream_sequencing.md,
spec/60_exceptions.md): what each update keeps, what each command keeps, and the statements: O8, O53 to O59. -/

namespace Sys2Proof.Machine

/-! ## The buffers (R35, R60, R70) -/

section
variable {s : State}

theorem State.memInv_putTarget (h : s.memInv) {t : Target} {a : Nat} (ha : a < s.targetSize t) (b : Byte) :
    (s.putTarget t a b).memInv := by
  obtain ⟨hsec, hscr, hdmx, hrgba, hiso, hdata, size⟩ := h
  cases t with
  | data => exact ⟨hsec, hscr, hdmx, hrgba, hiso, Memory.wfZ_writeZ hdata ha, size⟩
  | sec => exact ⟨Memory.wf_write hsec ha, hscr, hdmx, hrgba, hiso, hdata, size⟩
  | scr => exact ⟨hsec, Memory.wf_write hscr ha, hdmx, hrgba, hiso, hdata, size⟩

theorem State.targetSize_putTarget (s : State) (t : Target) (a : Nat) (b : Byte) :
    (s.putTarget t a b).targetSize t = s.targetSize t := by
  cases t with
  | data => exact Memory.writeZ_size _ _ _
  | sec => rfl
  | scr => rfl

theorem State.memInv_foldl_putNibble {t : Target} {ds : Nat} {l : List (Nat × Nibble)} (h : s.memInv)
    (hl : ∀ p ∈ l, p.1 < s.targetSize t) : (l.foldl (State.putNibble t ds) s).memInv := by
  induction l generalizing s with
  | nil => exact h
  | cons p l ih =>
    refine ih (State.memInv_putTarget h (hl p (by simp)) _) fun q hq => ?_
    rw [State.putNibble, State.targetSize_putTarget]
    exact hl q (by simp [hq])

theorem State.memInv_encoded {c : Config} (hc : Sizes c) {t : Target} {ch base stride fc dbase ds dp : Nat}
    (h : s.memInv) (hop : EncodeOperands s t ch stride fc dbase ds dp) :
    (s.encoded c t ch base stride fc dbase ds dp).memInv := by
  refine State.memInv_foldl_putNibble (s := s) h fun p hp => ?_
  obtain ⟨i, hi, e⟩ := (mem_laneAddrs hc).1 (List.of_mem_zip (a := p.1) (b := p.2) hp).1
  exact e ▸ hop.inside i hi

theorem State.memInv_putSec (h : s.memInv) {a : Nat} {bs : List Byte} (hb : a + bs.length ≤ 2352) :
    (s.putSec a bs).memInv := by
  obtain ⟨hsec, hrest⟩ := h
  obtain ⟨-, -, -, -, -, size, -⟩ := id hrest
  exact ⟨Memory.wf_writeList hsec (size ▸ hb), hrest⟩

end

theorem Update.memInv {s t : State} (hs : s.memInv) (h : Update s t) : t.memInv := by
  cases h with
  | encode c hc tgt ch base stride fc dbase ds dp hop => exact State.memInv_encoded hc hs hop
  | demux bs hbs n =>
    obtain ⟨hsec, hscr, hdmx, hrgba, hiso, hdata, hsec', hscr', hdmx'⟩ := hs
    exact ⟨hsec, hscr, Memory.wf_writeList hdmx (by rw [hbs, hdmx']), hrgba, hiso, hdata, hsec', hscr', hdmx'⟩
  | sector a bs hb => exact State.memInv_putSec hs hb
  | _ => exact hs

theorem State.memInv_resetKeepingHost {s : State} (h : s.memInv) : (s.resetKeepingHost Config.hw).memInv := by
  obtain ⟨-, -, -, hrgba, hiso, hdata, -⟩ := h
  obtain ⟨hsec, hscr, hdmx, -⟩ := State.reset_memory_wf
  exact ⟨hsec, hscr, hdmx, hrgba, hiso, hdata, rfl, rfl, rfl⟩

theorem State.memInv_fillBuffer {s : State} (h : s.memInv) (b : HostBuffer) (bytes : List Byte) :
    (s.fillBuffer b bytes).memInv := by
  obtain ⟨hsec, hscr, hdmx, hrgba, hiso, hdata, size⟩ := h
  cases b with
  | rgba => exact ⟨hsec, hscr, hdmx, Memory.wf_filled bytes, hiso, hdata, size⟩
  | iso => exact ⟨hsec, hscr, hdmx, hrgba, Memory.wf_filled bytes, hdata, size⟩
  | data => exact ⟨hsec, hscr, hdmx, hrgba, hiso, Memory.wfZ_filledZ bytes, size⟩

theorem State.memInv_storeBuffer {s : State} (h : s.memInv) {b : HostBuffer} {a : Nat} (ha : a < s.bufferSize b)
    (byte : Byte) : (s.storeBuffer b a byte).memInv := by
  obtain ⟨hsec, hscr, hdmx, hrgba, hiso, hdata, size⟩ := h
  cases b with
  | rgba => exact ⟨hsec, hscr, hdmx, Memory.wf_write hrgba ha, hiso, hdata, size⟩
  | iso => exact ⟨hsec, hscr, hdmx, hrgba, Memory.wf_write hiso ha, hdata, size⟩
  | data => exact ⟨hsec, hscr, hdmx, hrgba, hiso, Memory.wfZ_writeZ hdata ha, size⟩

/-- Everything a host write can do to the state. -/
theorem hostAct_eq_next {m : HostMove} {s t : State} (hm : ∀ c, m ≠ .command c) (h : hostAct m s = .next t) :
    (s.phase = .init ∧ ∃ w, t = { s with cfg := s.cfg.write w }) ∨ (∃ xs, t = { s with pcm := xs }) ∨
      (∃ b bytes, t = s.fillBuffer b bytes) ∨ (∃ b a byte, a < s.bufferSize b ∧ t = s.storeBuffer b a byte) ∨
      ∃ a byte, 0x010 ≤ a ∧ a ≤ 0x92B ∧ t = s.putSec a [byte] := by
  cases m with
  | command c => exact absurd rfl (hm c)
  | setting w =>
    simp only [hostAct] at h
    split_ifs at h with hp
    injection h with h
    exact .inl ⟨hp, w, h.symm⟩
  | pcm xs =>
    simp only [hostAct] at h
    split_ifs at h
    injection h with h
    exact .inr (.inl ⟨xs, h.symm⟩)
  | buffer b bytes =>
    simp only [hostAct] at h
    split_ifs at h
    injection h with h
    exact .inr (.inr (.inl ⟨b, bytes, h.symm⟩))
  | store b a byte =>
    simp only [hostAct] at h
    split_ifs at h with hc
    injection h with h
    have inside : ¬ s.bufferSize b ≤ a := fun e => hc (by simp [e])
    exact .inr (.inr (.inr (.inl ⟨b, a, byte, not_le.1 inside, h.symm⟩)))
  | storeSec a byte =>
    simp only [hostAct] at h
    split_ifs at h with hc
    injection h with h
    have inside : 0x010 ≤ a ∧ a ≤ 0x92B := by simpa [hostSecAddr] using hc
    exact .inr (.inr (.inr (.inr ⟨a, byte, inside.1, inside.2, h.symm⟩)))

theorem step_keeps_memInv {s t : State} (hs : s.memInv) (h : step s = .next t) : t.memInv := by
  refine step_keeps (P := State.memInv) (fun _ _ h => h)
    (fun _ _ _ => exec_keeps (fun _ _ => Update.memInv) (fun _ _ h _ => h) fun _ => State.memInv_resetKeepingHost)
    (fun _ _ _ h => h) (fun m u v hu hm h => ?_) hs h
  rcases hostAct_eq_next hm h with ⟨-, w, rfl⟩ | ⟨xs, rfl⟩ | ⟨b, bytes, rfl⟩ | ⟨b, a, byte, ha, rfl⟩ | ⟨a, byte, -, ha, rfl⟩
  · exact hu
  · exact hu
  · exact State.memInv_fillBuffer hu b bytes
  · exact State.memInv_storeBuffer hu ha byte
  · exact State.memInv_putSec hu (by rw [List.length_singleton]; omega)

/-! ## The channel bank and the snapshots -/

/-- The channel bank is in canonical form. -/
def bankWf (ch : Store Channel) : Prop := Store.wf ch ∧ ∀ p ∈ ch, p.2 ≠ Channel.zero

theorem bankWf_putChannel {s : State} (h : bankWf s.ch) (n : Nat) (v : Channel) : bankWf (s.putChannel n v).ch := by
  obtain ⟨rising, nonzero⟩ := h
  rw [State.putChannel_ch]
  split_ifs with hv
  · exact ⟨Store.wf_erase rising n, fun p hp => nonzero p (List.mem_filter.1 hp).1⟩
  · refine ⟨Store.wf_put rising n v, fun p hp => ?_⟩
    rcases Store.mem_putList hp with hp | hp
    · exact nonzero p hp
    · rw [List.mem_singleton.1 hp]
      exact hv

/-- Committing nibbles touches no register. -/
theorem putNibbles_registers (c : Config) (s : State) (t : Target) (d ds dp : Nat) (nibs : List Nibble) :
    (s.putNibbles c t d ds dp nibs).ch = s.ch ∧ (s.putNibbles c t d ds dp nibs).fb = s.fb ∧
      (s.putNibbles c t d ds dp nibs).fbc = s.fbc := by
  obtain ⟨_, _, _, h⟩ := putNibbles_frame c s t d ds dp nibs
  rw [h]
  exact ⟨rfl, rfl, rfl⟩

theorem putChannel_ch_congr {s u : State} (h : s.ch = u.ch) (n : Nat) (v : Channel) :
    (s.putChannel n v).ch = (u.putChannel n v).ch := by
  rw [State.putChannel_ch, State.putChannel_ch, h]

/-- The channel bank after AD.ENCODE: the predictor state of `CAND` goes to its channel (R166, R168). -/
theorem encoded_ch (c : Config) (t : Target) (ch base stride fc d ds dp : Nat) (s : State) :
    let u := s.encoded c t ch base stride fc d ds dp
    u.ch = (s.putChannel ch ⟨(s.channel ch).qerr, u.cand.val.prev1, u.cand.val.prev2⟩).ch :=
  putChannel_ch_congr (putNibbles_registers ..).1 _ _

theorem Update.storeInv {s t : State} (hs : s.storeInv) (h : Update s t) : t.storeInv := by
  obtain ⟨rising, nonzero, hfb, hfbc⟩ := id hs
  cases h with
  | clearChannel ch =>
    obtain ⟨r, n⟩ := bankWf_putChannel (s := s) ⟨rising, nonzero⟩ ch Channel.zero
    exact ⟨r, n, hfb, hfbc⟩
  | encode c hc tgt ch base stride fc dbase ds dp hop =>
    have bank : bankWf (s.encoded c tgt ch base stride fc dbase ds dp).ch := by
      rw [encoded_ch]
      exact bankWf_putChannel ⟨rising, nonzero⟩ ch _
    obtain ⟨_, _, _, _, _, _, _, _, _, frame⟩ := encoded_frame c tgt ch base stride fc dbase ds dp s
    rw [frame] at bank ⊢
    exact ⟨bank.1, bank.2, hfb, hfbc⟩
  | quant key q => exact ⟨rising, nonzero, Store.wf_put hfb key q, hfbc⟩
  | rate qs => exact ⟨rising, nonzero, hfb, Store.wf_putList hfbc 0 qs⟩
  | _ => exact hs

theorem State.storeInv_resetKeepingHost (s : State) : (s.resetKeepingHost Config.hw).storeInv :=
  ⟨.nil, fun _ h => (List.not_mem_nil h).elim, .nil, .nil⟩

theorem step_keeps_storeInv {s t : State} (hs : s.storeInv) (h : step s = .next t) : t.storeInv := by
  refine step_keeps (P := State.storeInv) (fun _ _ h => h)
    (fun _ _ _ => exec_keeps (fun _ _ => Update.storeInv) (fun _ _ h _ => h) fun u _ => State.storeInv_resetKeepingHost u)
    (fun _ _ _ h => h) (fun m u v hu hm h => ?_) hs h
  obtain ⟨_, _, _, _, _, _, rfl⟩ := hostAct_frame hm h
  exact hu

/-! ## `MB` and `DATA`: what every command but AD.ENCODE keeps (R35, R60)

An `Update` may put any list of blocks into `MB` and any byte into `DATA`; the commands do not. -/

/-- `MB` keeps its six blocks, and `DATA` its bytes. -/
structure KeepsBlocksAndData (s t : State) : Prop where
  mb : s.mbInv → t.mbInv
  data : t.data = s.data

namespace KeepsBlocksAndData

theorem refl (s : State) : KeepsBlocksAndData s s := ⟨id, rfl⟩

theorem trans {s t u : State} (h : KeepsBlocksAndData s t) (k : KeepsBlocksAndData t u) : KeepsBlocksAndData s u :=
  ⟨fun hs => k.mb (h.mb hs), k.data.trans h.data⟩

/-- An update of anything else. -/
theorem of_eq {s t : State} (hmb : t.mb = s.mb) (hdata : t.data = s.data) : KeepsBlocksAndData s t :=
  ⟨fun h => by unfold State.mbInv; rwa [hmb], hdata⟩

/-- What follows an update of anything else. -/
theorem after {s t u : State} (k : KeepsBlocksAndData t u) (hmb : t.mb = s.mb) (hdata : t.data = s.data) :
    KeepsBlocksAndData s u := (of_eq hmb hdata).trans k

theorem of_faulted {s t : State} (h : Faulted s t) : KeepsBlocksAndData s t := by
  obtain ⟨_, _, rfl⟩ := h; exact of_eq rfl rfl

theorem of_or {p : Prop} {s t : State} (h : Faulted s t ∨ p) (hp : p → KeepsBlocksAndData s t) : KeepsBlocksAndData s t :=
  h.elim of_faulted hp

theorem andThen {r : Result} {f : State → Result} {s t : State} (h : Machine.andThen r f = .next t)
    (hr : ∀ u, r = .next u → KeepsBlocksAndData s u) (hf : ∀ u, f u = .next t → KeepsBlocksAndData u t) :
    KeepsBlocksAndData s t := by
  rcases andThen_eq_next h with ⟨u, hu, -, ht⟩ | ⟨hu, -⟩
  · exact (hr u hu).trans (hf u ht)
  · exact hr t hu

theorem forEach {α : Type} {f : α → State → Result} (xs : List α)
    (hf : ∀ x s t, f x s = .next t → KeepsBlocksAndData s t) {s t : State} (h : Machine.forEach xs f s = .next t) :
    KeepsBlocksAndData s t := by
  induction xs generalizing s with
  | nil => rw [forEach_nil] at h; injection h with h; exact h ▸ refl s
  | cons x xs ih => exact andThen h (fun u hu => hf x s u hu) fun u hu => ih hu

theorem unlessFaulted {s t : State} {r : Result} (h : Machine.unlessFaulted s r = .next t)
    (hr : r = .next t → KeepsBlocksAndData s t) : KeepsBlocksAndData s t := by
  rcases unlessFaulted_eq_next h with ⟨-, rfl⟩ | ⟨-, h⟩
  · exact refl _
  · exact hr h

theorem ite_next {p : Prop} [Decidable p] {f : State → Result} {s t : State}
    (h : (if p then f s else .next s) = .next t) (hf : f s = .next t → KeepsBlocksAndData s t) :
    KeepsBlocksAndData s t := by
  split_ifs at h
  · exact hf h
  · injection h with h; exact h ▸ refl s

/-! ### The unit commands -/

section
variable {c : Config} (hc : Sizes c) {s t : State}

include hc in
theorem bwWrite {n value : Nat} (h : Machine.bwWrite c n value s = .next t) : KeepsBlocksAndData s t :=
  of_or (bwWrite_eq_next hc h) (by rintro ⟨-, -, ⟨-, rfl⟩ | ⟨-, -, rfl⟩⟩ <;> exact of_eq rfl rfl)

include hc in
theorem bwFlush (h : Machine.bwFlush c s = .next t) : KeepsBlocksAndData s t :=
  of_or (bwFlush_eq_next hc h) (by rintro (⟨-, -, rfl⟩ | ⟨-, rfl⟩) <;> exact of_eq rfl rfl)

theorem adReset {ch : Nat} (h : Machine.adReset ch s = .next t) : KeepsBlocksAndData s t :=
  of_or (adReset_eq_next h) (by rintro ⟨-, rfl⟩; exact of_eq rfl rfl)

include hc in
theorem adMinshift {ch base stride f : Nat} (h : Machine.adMinshift c ch base stride f s = .next t) :
    KeepsBlocksAndData s t := of_or (adMinshift_eq_next hc h) (by rintro ⟨-, -, -, rfl⟩; exact of_eq rfl rfl)

include hc in
theorem adTrial {ch base stride f r : Nat} (h : Machine.adTrial c ch base stride f r s = .next t) :
    KeepsBlocksAndData s t := of_or (adTrial_eq_next hc h) (by rintro ⟨-, -, -, -, rfl⟩; exact of_eq rfl rfl)

theorem putNibbles (c : Config) (s : State) {t : Target} (ht : t ≠ .data) (d ds dp : Nat) (nibs : List Nibble) :
    KeepsBlocksAndData s (s.putNibbles c t d ds dp nibs) := by
  unfold State.putNibbles
  generalize (laneAddrs c d dp).zip nibs = ps
  induction ps generalizing s with
  | nil => exact refl s
  | cons p ps ih =>
    refine trans ?_ (ih (State.putNibble t ds s p))
    cases t with
    | data => exact absurd rfl ht
    | sec => exact of_eq rfl rfl
    | scr => exact of_eq rfl rfl

include hc in
/-- AD.ENCODE into the buffer of a stream. -/
theorem adEncode {tgt : Target} (htgt : tgt ≠ .data) {ch base stride fc dbase ds dp : Nat}
    (h : Machine.adEncode c tgt ch base stride fc dbase ds dp s = .next t) : KeepsBlocksAndData s t :=
  of_or (adEncode_eq_next hc h) (by
    rintro ⟨-, -, rfl⟩
    exact (putNibbles c s htgt dbase ds dp _).trans (of_eq rfl rfl))

include hc in
theorem vdBegin (h : Machine.vdBegin c s = .next t) : KeepsBlocksAndData s t :=
  of_or (vdBegin_eq_next hc h) (by rintro ⟨-, -, -, -, -, -, rfl⟩; exact of_eq rfl rfl)

theorem vdCsc {n mx my : Nat} (h : Machine.vdCsc c n mx my s = .next t) : KeepsBlocksAndData s t :=
  of_or (vdCsc_eq_next h) (by
    rintro ⟨-, -, -, rfl⟩
    exact ⟨fun _ _ => ⟨rfl, by simp [Marked.put, macroblock, chromaBlock, lumaBlock]⟩, rfl⟩)

theorem vdDct {b : Nat} (h : Machine.vdDct c b s = .next t) : KeepsBlocksAndData s t :=
  of_or (vdDct_eq_next h) (by
    rintro ⟨-, hw, rfl⟩
    refine ⟨fun hs _ => ?_, rfl⟩
    obtain ⟨six, sixtyFour⟩ := hs hw
    refine ⟨by simpa [Marked.put] using six, fun x hx => ?_⟩
    rcases List.mem_or_eq_of_mem_set hx with hx | rfl
    · exact sixtyFour x hx
    · exact dctBlock_length c _)

theorem vdQuant {b m : Nat} (h : Machine.vdQuant c b m s = .next t) : KeepsBlocksAndData s t :=
  of_or (vdQuant_eq_next h) (by rintro ⟨-, -, -, rfl⟩; exact of_eq rfl rfl)

theorem vdRate (h : Machine.vdRate c s = .next t) : KeepsBlocksAndData s t := by
  obtain ⟨-, rfl⟩ := vdRate_eq_next h; exact of_eq rfl rfl

include hc in
theorem packAc (vs : List (BitVec 10)) {run : Nat} (h : Machine.packAc c vs run s = .next t) :
    KeepsBlocksAndData s t := by
  induction vs generalizing run s with
  | nil => injection h with h; exact h ▸ refl s
  | cons v vs ih =>
    unfold Machine.packAc at h
    split_ifs at h
    · exact ih h
    · exact andThen h (fun u hu => bwWrite hc hu) fun u hu =>
        andThen hu (fun u hu => bwWrite hc hu) fun u hu => after (ih hu) rfl rfl

include hc in
theorem packBlock {q : QBlock} (h : Machine.packBlock c q s = .next t) : KeepsBlocksAndData s t := by
  refine andThen h (fun u hu => bwWrite hc hu) fun u hu => ?_
  refine andThen hu (fun v hv => after (packAc hc _ hv) rfl rfl) fun v hv => ?_
  refine andThen hv (fun w hw => bwWrite hc hw) fun w hw => ?_
  injection hw with hw
  exact hw ▸ of_eq rfl rfl

include hc in
theorem vdPack {m b : Nat} (h : Machine.vdPack c m b s = .next t) : KeepsBlocksAndData s t :=
  of_or (vdPack_eq_next h) (by rintro ⟨-, -, q, -, h, -⟩; exact packBlock hc h)

include hc in
theorem vdEnd (h : Machine.vdEnd c s = .next t) : KeepsBlocksAndData s t :=
  of_or (vdEnd_eq_next h) (by
    rintro ⟨-, h⟩
    refine andThen h (fun u hu => bwWrite hc hu) fun u hu => ?_
    exact andThen hu (fun v hv => bwWrite hc hv) fun v hv => after (bwFlush hc hv) rfl rfl)

include hc in
theorem vdDemux (h : Machine.vdDemux c s = .next t) : KeepsBlocksAndData s t :=
  of_or (vdDemux_eq_next hc h) (by rintro ⟨-, rfl⟩; exact of_eq rfl rfl)

theorem scInit {submode coding : Nat} (h : Machine.scInit submode coding s = .next t) : KeepsBlocksAndData s t :=
  of_or (scInit_eq_next h) (by rintro ⟨-, -, -, -, rfl⟩; exact of_eq rfl rfl)

theorem scStamp {lba : Nat} (h : Machine.scStamp c lba s = .next t) : KeepsBlocksAndData s t :=
  of_or (scStamp_eq_next h) (by rintro ⟨-, rfl⟩; exact of_eq rfl rfl)

theorem scEdc {form : Nat} (h : Machine.scEdc c form s = .next t) : KeepsBlocksAndData s t :=
  of_or (scEdc_eq_next h) (by rintro ⟨-, -, -, rfl⟩; exact of_eq rfl rfl)

theorem scPq (h : Machine.scPq c s = .next t) : KeepsBlocksAndData s t :=
  of_or (scPq_eq_next h) (by rintro ⟨-, -, rfl⟩; exact of_eq rfl rfl)

include hc in
theorem scEmit {size : Nat} (h : Machine.scEmit c size s = .next t) : KeepsBlocksAndData s t :=
  of_or (scEmit_eq_next hc h) (by rintro ⟨-, ⟨-, rfl⟩ | ⟨-, rfl⟩⟩ <;> exact of_eq rfl rfl)

theorem sysValidate (h : Machine.sysValidate c s = .next t) : KeepsBlocksAndData s t := by
  obtain ⟨o, h⟩ := cfgValid_eq_next h
  cases o with
  | some k => exact of_faulted (.of_raise h)
  | none => injection h with h; exact h ▸ refl s

/-! ### The composite commands -/

include hc in
theorem vdFrame {n : Nat} (h : Machine.vdFrame c n s = .next t) : KeepsBlocksAndData s t := by
  refine andThen h (fun u hu => vdBegin hc hu) fun u hu => ?_
  obtain ⟨-, -, hu⟩ := needSize_eq_next hu
  refine andThen hu (fun v hv => forEach _ (fun m x y hxy => ?_) hv) fun v hv => ?_
  · exact andThen hxy (fun z hz => vdCsc hz) fun z hz => forEach _ (fun b x y hxy =>
      andThen hxy (fun z hz => vdDct hz) fun z hz => vdQuant hz) hz
  refine andThen hv (fun w hw => vdRate hw) fun w hw => ?_
  refine andThen hw (fun x hx => forEach _ (fun m y z hyz => ?_) hx) fun x hx => ?_
  · exact forEach _ (fun b y z hyz => vdPack hc hyz) hyz
  · exact andThen hx (fun y hy => vdEnd hc hy) fun y hy => vdDemux hc hy

include hc in
theorem xaSector {ch n : Nat} {last : Bool} (h : Machine.xaSector c ch n last s = .next t) : KeepsBlocksAndData s t := by
  obtain ⟨-, h⟩ := need_eq_next h
  obtain ⟨-, h⟩ := need_eq_next h
  refine andThen h (fun u hu => scInit hu) fun u hu => ?_
  refine after (forEach _ (fun g x y hxy => ?_) hu) rfl rfl
  refine forEach _ (fun v x y hxy => andThen hxy (fun z hz => adEncode hc (by decide) hz) fun z hz => ?_) hxy
  injection hz with hz
  exact hz ▸ of_eq rfl rfl

theorem strVideoSector {j : Nat} {last : Bool} (h : Machine.strVideoSector c j last s = .next t) :
    KeepsBlocksAndData s t := by
  refine andThen h (fun u hu => scInit hu) fun u hu => ?_
  injection hu with hu
  exact hu ▸ of_eq rfl rfl

include hc in
theorem strSector {format : Format} {ch g i : Nat} {last : Bool}
    (h : Machine.strSector c format ch g i last s = .next t) : KeepsBlocksAndData s t := by
  refine andThen h (fun u hu => ?_) fun u hu => ?_
  · split_ifs at hu
    · exact xaSector hc hu
    · exact strVideoSector hu
    · exact strVideoSector hu
  refine andThen hu (fun v hv => scStamp hv) fun v hv => ?_
  refine andThen hv (fun w hw => scEdc hw) fun w hw => ?_
  exact andThen hw (fun x hx => ite_next hx scPq) fun x hx => scEmit hc hx

include hc in
theorem strGroup {format : Format} {ch frames g : Nat} (h : Machine.strGroup c format ch frames g s = .next t) :
    KeepsBlocksAndData s t :=
  andThen h (fun _ hu => vdFrame hc hu) fun _ hu => forEach _ (fun _ _ _ hxy => strSector hc hxy) hu

include hc in
theorem xaChunk {format : Format} {ch total n : Nat} (h : Machine.xaChunk c format ch total n s = .next t) :
    KeepsBlocksAndData s t := by
  refine andThen h (fun u hu => xaSector hc hu) fun u hu => ?_
  refine andThen hu (fun v hv => ite_next hv scStamp) fun v hv => ?_
  exact andThen hv (fun w hw => scEdc hw) fun w hw => scEmit hc hw

include hc in
theorem spuUnit {n ch j : Nat} {flags : Bool → Byte} (h : Machine.spuUnit c n ch j flags s = .next t) :
    KeepsBlocksAndData s t := by
  obtain ⟨-, h⟩ := need_eq_next h
  refine andThen h (fun u hu => adEncode hc (by decide) hu) fun u hu => ?_
  injection hu with hu
  exact hu ▸ of_eq rfl rfl

include hc in
theorem rawSector {n : Nat} (h : Machine.rawSector c n s = .next t) : KeepsBlocksAndData s t := by
  refine andThen h (fun u hu => scInit hu) fun u hu => ?_
  refine andThen hu (fun v hv => after (scStamp hv) rfl rfl) fun v hv => ?_
  refine andThen hv (fun w hw => scEdc hw) fun w hw => ?_
  exact andThen hw (fun x hx => scPq hx) fun x hx => scEmit hc hx

theorem startStream (h : Machine.startStream c s = .next t) : KeepsBlocksAndData s t :=
  of_or (startStream_eq_next h) (by
    rintro ⟨-, u, hu, h⟩
    refine (forEach _ (fun _ _ _ h => adReset h) hu).trans ?_
    rcases h with ⟨-, rfl⟩ | rfl
    · exact refl _
    · exact of_eq rfl rfl)

theorem chunkLoop {n : Nat} {body : Nat → State → Result}
    (hb : ∀ i s t, body i s = .next t → KeepsBlocksAndData s t) (h : Machine.chunkLoop n body s = .next t) :
    KeepsBlocksAndData s t := by
  refine andThen h (fun u hu => forEach _ (fun i x y hxy => ?_) hu) fun u hu => ?_
  · refine trans (of_eq ?_ ?_) (hb i _ _ hxy) <;> unfold State.finalizeAt <;> split_ifs <;> rfl
  · injection hu with hu; exact hu ▸ of_eq rfl rfl

end

/-- Every command but AD.ENCODE keeps the form of `MB`, and `DATA`. -/
theorem exec {i : Instr} {s t : State} (hi : ∀ c base stride fc dbase ds dp, i ≠ .adEncode c base stride fc dbase ds dp)
    (h : Machine.exec i s = .next t) : KeepsBlocksAndData s t := by
  cases i with
  | bwWrite => exact unlessFaulted h (bwWrite hw_sizes)
  | bwFlush => exact unlessFaulted h (bwFlush hw_sizes)
  | adReset => exact unlessFaulted h adReset
  | adMinshift => exact unlessFaulted h (adMinshift hw_sizes)
  | adTrial => exact unlessFaulted h (adTrial hw_sizes)
  | adEncode => exact absurd rfl (hi _ _ _ _ _ _ _)
  | vdBegin => exact unlessFaulted h (vdBegin hw_sizes)
  | vdCsc => exact unlessFaulted h vdCsc
  | vdDct => exact unlessFaulted h vdDct
  | vdQuant => exact unlessFaulted h vdQuant
  | vdRate => exact unlessFaulted h vdRate
  | vdPack => exact unlessFaulted h (vdPack hw_sizes)
  | vdEnd => exact unlessFaulted h (vdEnd hw_sizes)
  | vdDemux => exact unlessFaulted h (vdDemux hw_sizes)
  | vdFrame => exact unlessFaulted h (vdFrame hw_sizes)
  | scTables => exact unlessFaulted h fun h => by rw [scTables_eq_next h]; exact of_eq rfl rfl
  | scInit => exact unlessFaulted h scInit
  | scStamp => exact unlessFaulted h scStamp
  | scEdc => exact unlessFaulted h scEdc
  | scPq => exact unlessFaulted h scPq
  | scEmit => exact unlessFaulted h (scEmit hw_sizes)
  | mxXa =>
    refine unlessFaulted h fun h => andThen h (fun u hu => startStream hu) fun u hu => ?_
    obtain ⟨-, hu⟩ := need_eq_next hu
    obtain ⟨-, hu⟩ := need_eq_next hu
    exact chunkLoop (fun _ _ _ => xaChunk hw_sizes) hu
  | mxSpu =>
    refine unlessFaulted h fun h => andThen h (fun u hu => startStream hu) fun u hu => ?_
    obtain ⟨-, hu⟩ := need_eq_next hu
    obtain ⟨-, hu⟩ := need_eq_next hu
    obtain ⟨-, hu⟩ := need_eq_next hu
    refine trans ?_ (chunkLoop (fun _ _ _ => spuUnit hw_sizes) hu)
    split_ifs
    · exact of_eq rfl rfl
    · exact refl u
  | mxSpui =>
    refine unlessFaulted h fun h => andThen h (fun u hu => startStream hu) fun u hu => ?_
    obtain ⟨-, hu⟩ := need_eq_next hu
    obtain ⟨-, hu⟩ := need_eq_next hu
    obtain ⟨-, hu⟩ := need_eq_next hu
    obtain ⟨-, hu⟩ := need_eq_next hu
    have chunk : ∀ bi total ch q s t, spuiChunk Config.hw ch bi total q s = .next t → KeepsBlocksAndData s t :=
      fun _ _ _ _ _ _ h => forEach _ (fun _ _ _ h => forEach _ (fun _ _ _ h => spuUnit hw_sizes h) h) h
    dsimp only at hu
    split_ifs at hu
    · obtain ⟨-, hu⟩ := need_eq_next hu
      exact after (chunkLoop (chunk _ _ _) hu) rfl rfl
    · exact chunkLoop (chunk _ _ _) hu
  | mxStr =>
    refine unlessFaulted h fun h => andThen h (fun u hu => startStream hu) fun u hu => ?_
    obtain ⟨-, hu⟩ := need_eq_next hu
    obtain ⟨-, hu⟩ := need_eq_next hu
    obtain ⟨-, -, hu⟩ := needSize_eq_next hu
    exact chunkLoop (fun _ _ _ => strGroup hw_sizes) hu
  | mxIso2raw =>
    refine unlessFaulted h fun h => ?_
    unfold mxIso2raw needInit at h
    split_ifs at h
    · exact of_faulted (.of_raise h)
    · exact after (chunkLoop (fun _ _ _ => rawSector hw_sizes) h) rfl rfl
    · exact of_faulted (.of_raise h)
  | sysReset => injection h with h; subst h; exact ⟨fun _ hw => (Bool.false_ne_true hw).elim, rfl⟩
  | sysValidate => exact unlessFaulted h sysValidate

end KeepsBlocksAndData

theorem exec_keeps_mbInv {i : Instr} {s t : State} (hs : s.mbInv) (h : exec i s = .next t) : t.mbInv := by
  cases i with
  | adEncode ch base stride fc dbase ds dp =>
    rcases unlessFaulted_eq_next h with ⟨-, rfl⟩ | ⟨-, h⟩
    · exact hs
    · rcases adEncode_eq_next hw_sizes h with ⟨_, _, rfl⟩ | ⟨-, -, rfl⟩
      · exact hs
      · obtain ⟨_, _, _, _, _, _, _, _, _, e⟩ := encoded_frame Config.hw .data ch base stride fc dbase ds dp s
        rw [e]
        exact hs
  | _ => exact (KeepsBlocksAndData.exec (by simp) h).mb hs

theorem step_keeps_mbInv {s t : State} (hs : s.mbInv) (h : step s = .next t) : t.mbInv := by
  refine step_keeps (P := State.mbInv) (fun _ _ h => h) (fun _ _ _ => exec_keeps_mbInv) (fun _ _ _ h => h)
    (fun m u v hu hm h => ?_) hs h
  obtain ⟨_, _, _, _, _, _, rfl⟩ := hostAct_frame hm h
  exact hu

/-- Settles O53: the three invariants, each kept by every update of the state. -/
theorem stepKeepsBuffersCanonical : Obligations.StepKeepsBuffersCanonical :=
  fun _ _ hmem hstore hmb h => ⟨step_keeps_memInv hmem h, step_keeps_storeInv hstore h, step_keeps_mbInv hmb h⟩

end Sys2Proof.Machine
end

section
/-! SUPPORT. The Bit Writer (spec/40_bit_writer.md) and the commands of the video encoder that write bits
(spec/42_dct_video.md R211 to R214): what a write, a flush and a block append to the bit string, and the statements:
O12, O13, O14, O15, O32, O33. -/

namespace Sys2Proof.Machine

/-! ## Bits of words and fields (R136) -/

theorem wordBits_length (w : BitVec 16) (n : Nat) : (wordBits w n).length = n := by simp [wordBits]

theorem fieldBits_length (n value : Nat) : (fieldBits n value).length = n := by simp [fieldBits]

/-- The unwritten low bits of an accumulator are 0. -/
def LowZero (acc : BitVec 16) (left : Nat) : Prop := ∀ i, i < left → acc.getLsbD i = false

theorem lowZero_iff (acc : BitVec 16) (left : Nat) : LowZero acc left ↔ acc.toNat % 2 ^ left = 0 := by
  constructor
  · intro h
    refine Nat.eq_of_testBit_eq fun i => ?_
    rw [Nat.testBit_mod_two_pow, Nat.zero_testBit]
    by_cases hi : i < left
    · rw [BitVec.testBit_toNat, h i hi, Bool.and_false]
    · simp [hi]
  · intro h i hi
    have bit : (acc.toNat % 2 ^ left).testBit i = false := by rw [h, Nat.zero_testBit]
    rwa [Nat.testBit_mod_two_pow, decide_eq_true hi, Bool.true_and, BitVec.testBit_toNat] at bit

theorem State.bwInv_iff (s : State) : s.bwInv ↔ s.bwLeft ≤ 16 ∧ LowZero s.bwAcc s.bwLeft := by
  rw [State.bwInv, lowZero_iff]

theorem getLsbD_or_field (acc : BitVec 16) (value k : Nat) {i : Nat} (hi : i < 16) :
    (acc ||| BitVec.ofNat 16 (value <<< k)).getLsbD i =
      (acc.getLsbD i || (decide (k ≤ i) && value.testBit (i - k))) := by
  rw [BitVec.getLsbD_or, BitVec.getLsbD_ofNat, Nat.testBit_shiftLeft]
  simp [hi]

theorem lowZero_or_field {acc : BitVec 16} {left n : Nat} (h : LowZero acc left) (hl : left ≤ 16) (value : Nat) :
    LowZero (acc ||| BitVec.ofNat 16 (value <<< (left - n))) (left - n) := by
  intro i hi
  rw [getLsbD_or_field _ _ _ (by omega), h i (by omega), Bool.false_or, decide_eq_false (by omega), Bool.false_and]

/-- A field placed at the top of the free bits is appended to the written ones. -/
theorem wordBits_or_field {acc : BitVec 16} {left n value : Nat} (h : LowZero acc left) (hl : left ≤ 16) (hn : n ≤ left)
    (hv : value < 2 ^ n) : wordBits (acc ||| BitVec.ofNat 16 (value <<< (left - n))) (16 - (left - n)) =
      wordBits acc (16 - left) ++ fieldBits n value := by
  have count : 16 - (left - n) = (16 - left) + n := by omega
  rw [wordBits, count, List.range_add, List.map_append, List.map_map]
  congr 1
  · refine List.map_congr_left fun i hi => ?_
    have hi := List.mem_range.1 hi
    have above : value.testBit (15 - i - (left - n)) = false :=
      Nat.testBit_lt_two_pow (lt_of_lt_of_le hv (Nat.pow_le_pow_right (by decide) (by omega)))
    rw [getLsbD_or_field _ _ _ (by omega), above, Bool.and_false, Bool.or_false]
  · refine List.map_congr_left fun i hi => ?_
    have hi := List.mem_range.1 hi
    have place : 15 - (16 - left + i) - (left - n) = n - 1 - i := by omega
    rw [Function.comp_apply, getLsbD_or_field _ _ _ (by omega), h _ (by omega), place, Bool.false_or,
      decide_eq_true (by omega), Bool.true_and]

/-- The rest of an accumulator whose unwritten bits are 0. -/
theorem wordBits_sixteen {acc : BitVec 16} {left : Nat} (h : LowZero acc left) (hl : left ≤ 16) :
    wordBits acc 16 = wordBits acc (16 - left) ++ List.replicate left false := by
  have zero : fieldBits left 0 = List.replicate left false :=
    List.eq_replicate_iff.2 ⟨fieldBits_length _ _, fun b hb => by
      obtain ⟨i, -, rfl⟩ := List.mem_map.1 hb; exact Nat.zero_testBit _⟩
  have step := wordBits_or_field (value := 0) h hl le_rfl (Nat.two_pow_pos left)
  rw [zero] at step
  simpa using step

/-- The two parts of a field that straddles a word (R131). -/
theorem fieldBits_split {n m : Nat} (h : m ≤ n) (value : Nat) :
    fieldBits n value = fieldBits m (value >>> (n - m)) ++ fieldBits (n - m) (value % 2 ^ (n - m)) := by
  have count : n = m + (n - m) := by omega
  conv_lhs => rw [fieldBits, count, List.range_add, List.map_append, List.map_map]
  congr 1
  · refine List.map_congr_left fun i hi => ?_
    have hi := List.mem_range.1 hi
    rw [Nat.testBit_shiftRight]
    congr 1
    omega
  · refine List.map_congr_left fun i hi => ?_
    have hi := List.mem_range.1 hi
    rw [Function.comp_apply, Nat.testBit_mod_two_pow, decide_eq_true (by omega), Bool.true_and]
    congr 1
    omega

theorem streamBits_cons (lo hi : Byte) (rest : List Byte) :
    streamBits (lo :: hi :: rest) = wordBits (hi ++ lo) 16 ++ streamBits rest := by rw [streamBits]

/-- Whole words before a byte string. -/
theorem streamBits_append {a : List Byte} (h : a.length % 2 = 0) (b : List Byte) :
    streamBits (a ++ b) = streamBits a ++ streamBits b := by
  match a, h with
  | [], _ => rfl
  | [x], h => exact absurd h (by simp)
  | lo :: hi :: rest, h =>
    have even : rest.length % 2 = 0 := by simp only [List.length_cons] at h; omega
    rw [List.cons_append, List.cons_append, streamBits_cons, streamBits_cons, streamBits_append even, List.append_assoc]

theorem streamBits_length {a : List Byte} (h : a.length % 2 = 0) : (streamBits a).length = 8 * a.length := by
  match a, h with
  | [], _ => rfl
  | [x], h => exact absurd h (by simp)
  | lo :: hi :: rest, h =>
    have even : rest.length % 2 = 0 := by simp only [List.length_cons] at h; omega
    rw [streamBits_cons, List.length_append, wordBits_length, streamBits_length even, List.length_cons, List.length_cons]
    omega

/-- The bytes of a word, low byte first, spell it. -/
theorem streamBits_word (w : BitVec 16) : streamBits [w.setWidth 8, (w >>> 8).setWidth 8] = wordBits w 16 := by
  have whole : ((w >>> 8).setWidth 8 ++ w.setWidth 8 : BitVec 16) = w := by
    refine BitVec.eq_of_getLsbD_eq fun i hi => ?_
    rw [BitVec.getLsbD_append]
    by_cases low : i < 8
    · simp [low]
    · have high : i - 8 < 8 := by omega
      have back : 8 + (i - 8) = i := by omega
      simp [low, high, back]
  rw [streamBits_cons, whole]
  exact List.append_nil _

/-! ## The updates of the unit -/

section
variable {s : State}

theorem State.bits_length (ho : s.outInv) : s.bits.length = 8 * s.out.length + (16 - s.bwLeft) := by
  rw [State.bits, List.length_append, streamBits_length ho, wordBits_length]

theorem State.bwInv_placeBits (h : s.bwInv) (n value : Nat) : (s.placeBits n value).bwInv := by
  obtain ⟨hl, low⟩ := s.bwInv_iff.1 h
  exact (State.bwInv_iff _).2 ⟨(Nat.sub_le _ _).trans hl, lowZero_or_field low hl value⟩

theorem State.bwInv_pushWord (s : State) : (s.pushWord Config.hw).bwInv := ⟨le_rfl, rfl⟩

theorem State.outInv_pushWord (h : s.outInv) : (s.pushWord Config.hw).outInv := by
  unfold State.outInv at *
  rw [State.pushWord_out, List.length_append, List.length_cons, List.length_singleton]
  omega

theorem State.bits_placeBits (h : s.bwInv) {n value : Nat} (hn : n ≤ s.bwLeft) (hv : value < 2 ^ n) :
    (s.placeBits n value).bits = s.bits ++ fieldBits n value := by
  obtain ⟨hl, low⟩ := s.bwInv_iff.1 h
  rw [State.bits, State.placeBits_out, State.placeBits_bwAcc, State.placeBits_bwLeft, wordBits_or_field low hl hn hv,
    ← List.append_assoc, ← State.bits]

theorem State.bits_pushWord (h : s.bwInv) (ho : s.outInv) :
    (s.pushWord Config.hw).bits = s.bits ++ List.replicate s.bwLeft false := by
  obtain ⟨hl, low⟩ := s.bwInv_iff.1 h
  rw [State.bits, State.pushWord_out, streamBits_append ho, streamBits_word, wordBits_sixteen low hl,
    ← List.append_assoc, ← State.bits]
  exact List.append_nil _

/-- Filling the accumulator is placing the top bits of the field. -/
theorem State.fillBits_eq_placeBits (s : State) (n value : Nat) :
    s.fillBits n value = s.placeBits s.bwLeft (value >>> (n - s.bwLeft)) := by
  simp only [State.fillBits, State.placeBits, Nat.sub_self, Nat.shiftLeft_zero]

/-- The state after a write that straddles a word (R131). -/
def State.splitBits (s : State) (n value : Nat) : State :=
  ((s.fillBits n value).pushWord Config.hw).placeBits (n - s.bwLeft) (value % 2 ^ (n - s.bwLeft))

theorem State.bwInv_splitBits (s : State) (n value : Nat) : (s.splitBits n value).bwInv :=
  State.bwInv_placeBits (State.bwInv_pushWord _) _ _

theorem State.outInv_splitBits (h : s.outInv) (n value : Nat) : (s.splitBits n value).outInv :=
  State.outInv_pushWord (s := s.fillBits n value) h

theorem State.bits_splitBits (h : s.bwInv) (ho : s.outInv) {n value : Nat} (hn : n ≤ 16) (hl : s.bwLeft < n)
    (hv : value < 2 ^ n) : (s.splitBits n value).bits = s.bits ++ fieldBits n value := by
  have top : value >>> (n - s.bwLeft) < 2 ^ s.bwLeft := by
    rw [Nat.shiftRight_eq_div_pow]
    refine Nat.div_lt_of_lt_mul ?_
    rwa [← pow_add, Nat.sub_add_cancel hl.le]
  have filled : (s.fillBits n value).bits = s.bits ++ fieldBits s.bwLeft (value >>> (n - s.bwLeft)) := by
    rw [State.fillBits_eq_placeBits, State.bits_placeBits h le_rfl top]
  have inv : (s.fillBits n value).bwInv := by
    rw [State.fillBits_eq_placeBits]
    exact State.bwInv_placeBits h _ _
  have room : n - s.bwLeft ≤ ((s.fillBits n value).pushWord Config.hw).bwLeft := (Nat.sub_le _ _).trans hn
  rw [State.splitBits, State.bits_placeBits (State.bwInv_pushWord _) room (Nat.mod_lt _ (Nat.two_pow_pos _)),
    State.bits_pushWord inv ho, filled, State.fillBits_bwLeft, List.replicate_zero, List.append_nil, List.append_assoc,
    ← fieldBits_split hl.le]

end

/-! ## What a sequence of writes leaves -/

/-- `t` is `s` with bits appended to its stream, in whole words of `OUT`; beside the bit writer only the word count may
differ. -/
structure Appended (s t : State) (bs : List Bool) : Prop where
  bits : t.bits = s.bits ++ bs
  bw : t.bwInv
  out : t.outInv
  frame : t = { s with bwAcc := t.bwAcc, bwLeft := t.bwLeft, out := t.out, fcWords := t.fcWords }

namespace Appended
variable {s t u : State} {a b : List Bool}

theorem fault (h : Appended s t a) : t.fault = s.fault := by rw [h.frame]

theorem trans (h : Appended s t a) (k : Appended t u b) : Appended s u (a ++ b) :=
  ⟨by rw [k.bits, h.bits, List.append_assoc], k.bw, k.out, by rw [k.frame, h.frame]⟩

/-- Counting words appends nothing. -/
theorem words (h : Appended s t a) (n : Nat) : Appended s { t with fcWords := n } a :=
  ⟨h.bits, h.bw, h.out, by rw [h.frame]⟩

/-- The length of the stream afterwards. -/
theorem length (h : Appended s t a) : t.bits.length = s.bits.length + a.length := by rw [h.bits, List.length_append]

end Appended

/-! ## Room (R30, R133) -/

theorem outFull_hw_eq_false {s : State} (h : s.room 2) : outFull Config.hw s = false := by
  unfold outFull
  split
  · rfl
  · rename_i cap hcap
    have := h cap hcap
    exact decide_eq_false (by omega)

/-- `OUT` has room for the whole words of a stream of `n` bits. -/
def RoomFor (n : Nat) : Prop := ∀ cap, Config.hw.outCap = some cap → 2 * (n / 16) ≤ cap

theorem RoomFor.mono {m n : Nat} (h : RoomFor n) (hm : m ≤ n) : RoomFor m := fun cap hcap =>
  (Nat.mul_le_mul_left 2 (Nat.div_le_div_right hm)).trans (h cap hcap)

section
variable {s : State}

/-- The room that a statement asks for, beyond what stands in `OUT`, is room for the whole stream. -/
theorem State.roomFor_of_room (ho : s.outInv) {n : Nat} (h : s.room (2 * ((16 - s.bwLeft + n) / 16))) :
    RoomFor (s.bits.length + n) := by
  intro cap hcap
  have room := h cap hcap
  have even : s.out.length % 2 = 0 := ho
  rw [State.bits_length ho]
  omega

/-- A write that starts another word finds room for it. -/
theorem State.room_of_roomFor (hb : s.bwInv) (ho : s.outInv) {n : Nat} (hl : s.bwLeft ≤ n)
    (h : RoomFor (s.bits.length + n)) : s.room 2 := by
  intro cap hcap
  have room := h cap hcap
  have even : s.out.length % 2 = 0 := ho
  obtain ⟨left, -⟩ := id hb
  rw [State.bits_length ho] at room
  omega

/-! ## BW.WRITE and BW.FLUSH -/

theorem bwWrite_of_fits {n value : Nat} (hn : n ≤ 16) (hv : value < 2 ^ n) (hl : n ≤ s.bwLeft) :
    bwWrite Config.hw n value s = .next (s.placeBits n value) := by
  rw [bwWrite, hw_bwNmax, if_neg (by omega), if_neg (by omega), if_pos hl]

theorem bwWrite_of_straddles {n value : Nat} (hn : n ≤ 16) (hv : value < 2 ^ n) (hl : s.bwLeft < n) (hr : s.room 2) :
    bwWrite Config.hw n value s = .next (s.splitBits n value) := by
  rw [bwWrite, hw_bwNmax, if_neg (by omega), if_neg (by omega), if_neg (by omega),
    if_neg (by rw [outFull_hw_eq_false hr]; decide), State.splitBits]

theorem bwWrite_appends (hb : s.bwInv) (ho : s.outInv) {n value : Nat} (hn : n ≤ 16) (hv : value < 2 ^ n)
    (hr : s.bwLeft < n → s.room 2) : ∃ t, bwWrite Config.hw n value s = .next t ∧ t.fcWords = s.fcWords ∧
      Appended s t (fieldBits n value) := by
  by_cases hl : n ≤ s.bwLeft
  · exact ⟨_, bwWrite_of_fits hn hv hl, rfl, State.bits_placeBits hb hl hv, State.bwInv_placeBits hb _ _, ho, rfl⟩
  · have hl : s.bwLeft < n := not_le.1 hl
    exact ⟨_, bwWrite_of_straddles hn hv hl (hr hl), rfl, State.bits_splitBits hb ho hn hl hv, State.bwInv_splitBits _ _ _,
      State.outInv_splitBits ho _ _, rfl⟩

theorem bwFlush_of_empty (hl : s.bwLeft = 16) : bwFlush Config.hw s = .next s := by
  rw [bwFlush, hw_accBits, if_neg (by omega)]

theorem bwFlush_of_partial (hl : s.bwLeft < 16) (hr : s.room 2) : bwFlush Config.hw s = .next (s.pushWord Config.hw) := by
  rw [bwFlush, hw_accBits, if_pos hl, if_neg (by rw [outFull_hw_eq_false hr]; decide)]

theorem bwFlush_appends (hb : s.bwInv) (ho : s.outInv) (hr : s.bwLeft < 16 → s.room 2) :
    ∃ t, bwFlush Config.hw s = .next t ∧ t.fcWords = s.fcWords ∧ t.bwAcc = 0 ∧ t.bwLeft = 16 ∧ (s.bwLeft = 16 → t = s) ∧
      Appended s t (List.replicate (s.bwLeft % 16) false) := by
  obtain ⟨left, low⟩ := id hb
  by_cases hl : s.bwLeft = 16
  · have empty : s.bwAcc = 0 := BitVec.eq_of_toNat_eq (by
      rw [hl, Nat.mod_eq_of_lt s.bwAcc.isLt] at low; exact low)
    refine ⟨s, bwFlush_of_empty hl, rfl, empty, hl, fun _ => rfl, ?_, hb, ho, rfl⟩
    rw [hl]
    exact (List.append_nil _).symm
  · have hl : s.bwLeft < 16 := by omega
    refine ⟨_, bwFlush_of_partial hl (hr hl), rfl, rfl, rfl, fun e => absurd e hl.ne, ?_, State.bwInv_pushWord _,
      State.outInv_pushWord ho, rfl⟩
    rw [Nat.mod_eq_of_lt hl, State.bits_pushWord hb ho]

end

theorem exec_bwWrite (n value : Nat) {s : State} (hf : s.fault = false) :
    exec (.bwWrite n value) s = bwWrite Config.hw n value s := unlessFaulted_ok hf _

theorem exec_bwFlush {s : State} (hf : s.fault = false) : exec .bwFlush s = bwFlush Config.hw s := unlessFaulted_ok hf _

/-- Settles O12: a field is placed whole, or in two parts around a word. -/
theorem bitWriteAppendsField : Obligations.BitWriteAppendsField := by
  intro s n value hf hb ho hn hv hr
  obtain ⟨t, ht, hwords, h⟩ := bwWrite_appends hb ho hn hv hr
  refine ⟨t, (exec_bwWrite n value hf).trans ht, h.bits, h.bw, h.out, ?_⟩
  rw [h.frame, hwords]

/-- Settles O13: the shifts of the model are the products of R131. -/
theorem bitWriteRegisters : Obligations.BitWriteRegisters := by
  intro s n value hf hn hv
  rw [exec_bwWrite n value hf]
  refine ⟨fun hl => ?_, fun hl hr => ?_⟩
  · rw [bwWrite_of_fits hn hv hl, State.placeBits, Nat.shiftLeft_eq]
  · have bytes : ∀ w : BitVec 16, [w.setWidth 8, (w >>> 8).setWidth 8] = [w.extractLsb' 0 8, w.extractLsb' 8 8] := fun w =>
      congrArg₂ (fun x y => [x, y]) (BitVec.setWidth_ushiftRight_eq_extractLsb (w' := 0) (b := w))
        BitVec.setWidth_ushiftRight_eq_extractLsb
    rw [bwWrite_of_straddles hn hv hl hr, State.splitBits, State.placeBits, State.pushWord, State.fillBits, bytes,
      Nat.shiftRight_eq_div_pow, Nat.shiftLeft_eq]
    dsimp only
    rw [show ∀ x : BitVec 16, 0 ||| x = x from fun _ => BitVec.zero_or]
    rfl

/-- Settles O14: the flush writes the word with its unwritten bits, which are 0. -/
theorem bitFlushPadsToAWord : Obligations.BitFlushPadsToAWord := by
  intro s hf hb ho hr
  obtain ⟨t, ht, hwords, hacc, hleft, hsame, h⟩ := bwFlush_appends hb ho hr
  refine ⟨t, (exec_bwFlush hf).trans ht, h.bits, hacc, hleft, hsame, ?_, ?_⟩
  · rw [State.bits_length h.out, hleft, Nat.sub_self, Nat.add_zero]
  · rw [h.frame, hwords]

/-- Settles O15: the three checks, in the order of R131. -/
theorem bitWriterFaults : Obligations.BitWriterFaults := by
  intro s n value hf fail
  refine ⟨fun hn => ?_, fun hn hv => ?_, ⟨exec_bwWrite n value hf, exec_bwFlush hf⟩, fun cap hcap => ?_⟩
  · rw [exec_bwWrite n value hf, bwWrite, hw_bwNmax, if_pos hn]; rfl
  · rw [exec_bwWrite n value hf, bwWrite, hw_bwNmax, if_neg (by omega), if_pos hv]; rfl
  · intro c
    have full : outFull c s = true := decide_eq_true hcap
    refine ⟨fun h => ?_, fun hn hv hl => ?_, fun hl => ?_⟩
    · show { Config.hw with outCap := some cap } = Config.hw
      rw [← h]
    · have nmax : c.bwNmax = 16 := rfl
      rw [bwWrite, nmax, if_neg (by omega), if_neg (by omega), if_neg (by omega), if_pos full]; rfl
    · have bits : c.accBits = 16 := rfl
      rw [bwFlush, bits, if_pos hl, if_pos full]; rfl

/-! ## VD.PACK (R209 to R212) -/

theorem runPairs_length (vs : List (BitVec 10)) (run : Nat) :
    (runPairs vs run).length = (vs.filter fun v => decide (v ≠ 0)).length := by
  induction vs generalizing run with
  | nil => rfl
  | cons v vs ih =>
    rw [runPairs]
    split_ifs with hv
    · rw [ih, List.filter_cons_of_neg (by simpa using hv)]
    · rw [List.length_cons, ih, List.filter_cons_of_pos (by simpa using hv), List.length_cons]

theorem pairBits_length (p : Nat × BitVec 10) : (pairBits p).length = 22 := by
  rw [pairBits, List.length_append, fieldBits_length, fieldBits_length]

theorem flatMap_pairBits_length (ps : List (Nat × BitVec 10)) : (ps.flatMap pairBits).length = 22 * ps.length := by
  induction ps with
  | nil => rfl
  | cons p ps ih => rw [List.flatMap_cons, List.length_append, pairBits_length, ih, List.length_cons]; omega

/-- The scan visits every AC index once (R210). -/
theorem scan_perm : List.Perm ((List.range 63).map fun i => Config.tableZagzig.getD (i + 1) 0)
    ((List.range 64).filter fun k => decide (0 < k)) := by decide

/-- Every coefficient that is not 0 gives one pair. -/
theorem runPairs_scanOrder_length (q : QBlock) : (runPairs (scanOrder q) 0).length = nonzeroAc q := by
  have counted := (scan_perm.filter fun k => decide (q.getD k 0 ≠ 0)).length_eq
  rw [runPairs_length, scanOrder, List.filter_map, List.length_map]
  rw [List.filter_map, List.length_map, List.filter_filter] at counted
  refine counted.trans (congrArg List.length (List.filter_congr fun k _ => ?_))
  rw [Bool.and_comm]

theorem blockBits_length (q : QBlock) : (blockBits q).length = 12 + 22 * nonzeroAc q := by
  rw [blockBits, List.length_append, List.length_append, fieldBits_length, fieldBits_length, flatMap_pairBits_length,
    runPairs_scanOrder_length]
  omega

/-- The run and value word of R113: the run stands above the 10 bits of the value. -/
theorem runWord_eq (run : Nat) (v : BitVec 10) : (run <<< 10) ||| v.toNat = 1024 * run + v.toNat := by
  rw [← Nat.shiftLeft_add_eq_or_of_lt v.isLt, Nat.shiftLeft_eq, Nat.mul_comm]

theorem packAc_appends {vs : List (BitVec 10)} {run : Nat} {s : State} (hrun : run + vs.length ≤ 63)
    (hf : s.fault = false) (hb : s.bwInv) (ho : s.outInv)
    (hr : RoomFor (s.bits.length + 22 * (runPairs vs run).length)) :
    ∃ t, packAc Config.hw vs run s = .next t ∧ t.fcWords = s.fcWords + (runPairs vs run).length ∧
      Appended s t ((runPairs vs run).flatMap pairBits) := by
  induction vs generalizing run s with
  | nil => exact ⟨s, rfl, rfl, (List.append_nil _).symm, hb, ho, rfl⟩
  | cons v vs ih =>
    rw [List.length_cons] at hrun
    unfold packAc runPairs
    unfold runPairs at hr
    split_ifs with hv
    · rw [if_pos hv] at hr
      exact ih (by omega) hf hb ho hr
    · rw [if_neg hv, List.length_cons] at hr
      have small : 1024 * run + v.toNat < 2 ^ 16 := by have := v.isLt; omega
      obtain ⟨t, ht, wt, st⟩ := bwWrite_appends hb ho (n := 6) (value := 1) (by decide) (by decide) fun hl =>
        State.room_of_roomFor hb ho hl.le (hr.mono (by omega))
      have lt := st.length
      rw [fieldBits_length] at lt
      obtain ⟨u, hu, wu, su⟩ := bwWrite_appends st.bw st.out (n := 16) (by decide) small fun hl =>
        State.room_of_roomFor st.bw st.out hl.le (hr.mono (by omega))
      have lu := su.length
      rw [fieldBits_length] at lu
      have tf : t.fault = false := st.fault.trans hf
      have uf : u.fault = false := su.fault.trans tf
      obtain ⟨x, hx, wx, sx⟩ := ih (run := 0) (s := u.addWords 1) (by omega) uf su.bw su.out
        (hr.mono (by show u.bits.length + _ ≤ _; omega))
      refine ⟨x, ?_, ?_, ?_⟩
      · rw [hw_esc, ht, andThen_next_ok tf, runWord_eq, hu, andThen_next_ok uf, hx]
      · rw [wx, State.addWords_fcWords, wu, wt, List.length_cons]; omega
      · rw [List.flatMap_cons]
        exact ((st.trans su).words (u.fcWords + 1)).trans sx

theorem packBlock_appends {q : QBlock} {s : State} (hf : s.fault = false) (hb : s.bwInv) (ho : s.outInv)
    (hr : RoomFor (s.bits.length + (12 + 22 * nonzeroAc q))) :
    ∃ t, packBlock Config.hw q s = .next t ∧ t.fcWords = (s.fcWords + 2 + nonzeroAc q + 15) / 16 * 16 ∧
      Appended s t (blockBits q) := by
  have pairs := runPairs_scanOrder_length q
  obtain ⟨t, ht, wt, st⟩ := bwWrite_appends hb ho (n := 10) (by decide) (q.getD 0 0).isLt fun hl =>
    State.room_of_roomFor hb ho hl.le (hr.mono (by omega))
  have lt := st.length
  rw [fieldBits_length] at lt
  have tf : t.fault = false := st.fault.trans hf
  obtain ⟨u, hu, wu, su⟩ := packAc_appends (vs := scanOrder q) (run := 0) (s := t.addWords 1) (by simp [scanOrder]) tf
    st.bw st.out (hr.mono (by rw [pairs]; show t.bits.length + _ ≤ _; omega))
  have lu := su.length
  rw [flatMap_pairBits_length, pairs] at lu
  have uf : u.fault = false := su.fault.trans tf
  obtain ⟨x, hx, wx, sx⟩ := bwWrite_appends su.bw su.out (n := 2) (value := 2) (by decide) (by decide) fun hl =>
    State.room_of_roomFor su.bw su.out hl.le (hr.mono (by
      have : (t.addWords 1).bits.length = t.bits.length := rfl
      omega))
  have xf : x.fault = false := sx.fault.trans uf
  refine ⟨(x.addWords 1).roundWords, ?_, ?_, (((st.words _).trans su).trans sx).words _⟩
  · have scan : scanAc Config.hw q = scanOrder q := rfl
    rw [packBlock, ht, andThen_next_ok tf, scan, hu, andThen_next_ok uf, hw_eob, hx, andThen_next_ok xf]
  · rw [State.roundWords_fcWords, State.addWords_fcWords, wx, wu, State.addWords_fcWords, wt, pairs]
    congr 2
    omega

theorem vdPack_appends {s : State} {m b : Nat} {q : QBlock} (hf : s.fault = false) (hw : s.cfg.width.written = true)
    (hh : s.cfg.height.written = true) (hb5 : b ≤ 5) (hm : m < nmb s.cfg.width.val s.cfg.height.val)
    (hq : Store.lookup s.fbc (blockKey m b) = some q) (hb : s.bwInv) (ho : s.outInv)
    (hr : RoomFor (s.bits.length + (12 + 22 * nonzeroAc q))) :
    ∃ t, vdPack Config.hw m b s = .next t ∧ t.fcWords = (s.fcWords + 2 + nonzeroAc q + 15) / 16 * 16 ∧
      Appended s t (blockBits q) := by
  obtain ⟨t, ht, wt, st⟩ := packBlock_appends hf hb ho hr
  refine ⟨t, ?_, wt, st⟩
  rw [vdPack, if_neg (by omega), needSize_written hw hh, if_neg (by omega), hq]
  exact (congrArg (allOrNothing s) ht).trans (allOrNothing_ok (st.fault.trans hf))

theorem exec_vdPack (m b : Nat) {s : State} (hf : s.fault = false) : exec (.vdPack m b) s = vdPack Config.hw m b s :=
  unlessFaulted_ok hf _

theorem vdPack_of_outside (c : Config) {s : State} {m b : Nat} (hw : s.cfg.width.written = true)
    (hh : s.cfg.height.written = true) (h : ¬ (b ≤ 5 ∧ m < nmb s.cfg.width.val s.cfg.height.val)) :
    ∃ info, vdPack c m b s = raise .addressRange info s := by
  rw [vdPack, needSize_written hw hh]
  by_cases hb : 5 < b
  · exact ⟨b, if_pos hb⟩
  · exact ⟨m, by rw [if_neg hb, if_pos (by omega)]⟩

/-- Settles O32: the DC field, the pairs and the end marker, each one or two writes. -/
theorem packWritesTheBlockBits : Obligations.PackWritesTheBlockBits := by
  intro s m b hf hw hh n
  rw [exec_vdPack m b hf]
  refine ⟨fun q hb5 hm hq hb ho hr => ?_, fun h => vdPack_of_outside Config.hw hw hh h⟩
  obtain ⟨t, ht, wt, st⟩ := vdPack_appends hf hw hh hb5 hm hq hb ho (State.roomFor_of_room ho hr)
  exact ⟨t, ht, st.bits, blockBits_length q, wt, st.bw, st.out, st.frame⟩

/-! ## VD.END (R213) -/

theorem vdEnd_appends {s : State} (hf : s.fault = false) (hb : s.bwInv) (ho : s.outInv)
    (hr : RoomFor (s.bits.length + 27)) :
    ∃ t pad, vdEnd Config.hw s = .next t ∧ pad < 16 ∧ t.bwAcc = 0 ∧ t.bwLeft = 16 ∧
      t.fcWords = (s.fcWords + 2 + 15) / 16 * 16 ∧
      Appended s t (fieldBits 10 0x1FF ++ fieldBits 2 0b10 ++ List.replicate pad false) := by
  obtain ⟨t, ht, wt, st⟩ := bwWrite_appends hb ho (n := 10) (value := 0x1FF) (by decide) (by decide) fun hl =>
    State.room_of_roomFor hb ho hl.le (hr.mono (by omega))
  have lt := st.length
  rw [fieldBits_length] at lt
  have tf : t.fault = false := st.fault.trans hf
  obtain ⟨u, hu, wu, su⟩ := bwWrite_appends st.bw st.out (n := 2) (value := 2) (by decide) (by decide) fun hl =>
    State.room_of_roomFor st.bw st.out hl.le (hr.mono (by omega))
  have lu := su.length
  rw [fieldBits_length] at lu
  have uf : u.fault = false := su.fault.trans tf
  have counted := (st.trans su).words (u.addWords 2).roundWords.fcWords
  have same : (u.addWords 2).roundWords.bits.length = u.bits.length := rfl
  obtain ⟨x, hx, wx, ax, lx, -, sx⟩ := bwFlush_appends (s := (u.addWords 2).roundWords) counted.bw counted.out fun hl =>
    State.room_of_roomFor (n := 15) su.bw su.out (Nat.le_of_lt_succ hl) (hr.mono (by omega))
  have xf : x.fault = false := (sx.fault).trans uf
  refine ⟨x, u.bwLeft % 16, ?_, Nat.mod_lt _ (by decide), ax, lx, ?_, counted.trans sx⟩
  · rw [vdEnd, hw_sentinel, hw_eob, ht, andThen_next_ok tf, hu, andThen_next_ok uf, hx, allOrNothing_ok xf]
  · rw [wx, State.roundWords_fcWords, State.addWords_fcWords, wu, wt]

theorem exec_vdEnd {s : State} (hf : s.fault = false) : exec .vdEnd s = vdEnd Config.hw s := unlessFaulted_ok hf _

/-- Settles O33: two writes, the count and the flush. -/
theorem endTerminatesTheFrame : Obligations.EndTerminatesTheFrame := by
  intro s hf hb ho hr
  rw [exec_vdEnd hf]
  have room : RoomFor (s.bits.length + 27) := State.roomFor_of_room ho hr
  obtain ⟨t, pad, ht, hpad, hacc, hleft, wt, st⟩ := vdEnd_appends hf hb ho room
  refine ⟨t, pad, ht, hpad, ?_, hacc, hleft, ?_, st.out, wt, st.frame⟩
  · rw [st.bits]; simp only [List.append_assoc]
  · rw [State.bits_length st.out, hleft, Nat.sub_self, Nat.add_zero]

end Sys2Proof.Machine
end

section
/-! SUPPORT. The invariants of the whole machine, continued (spec/10_state.md, spec/44_stream_sequencing.md,
spec/60_exceptions.md): the bit writer, the fault registers and the phase, the quantisation error, reset, and the host's
buffers: O8, O36, O47, O54 to O59. -/

namespace Sys2Proof.Machine

/-! ## The bit writer (R29, R64) -/

/-- AD.ENCODE does not touch the bit writer. -/
theorem encoded_bitWriter (c : Config) (t : Target) (ch base stride fc d ds dp : Nat) (s : State) :
    let u := s.encoded c t ch base stride fc d ds dp
    u.bwAcc = s.bwAcc ∧ u.bwLeft = s.bwLeft ∧ u.out = s.out := by
  obtain ⟨_, _, _, _, _, _, _, _, _, h⟩ := encoded_frame c t ch base stride fc d ds dp s
  rw [h]
  exact ⟨rfl, rfl, rfl⟩

theorem Update.bitWriter {s t : State} (hs : s.bwInv ∧ s.outInv) (h : Update s t) : t.bwInv ∧ t.outInv := by
  obtain ⟨hb, ho⟩ := id hs
  cases h with
  | place n value hv hn => exact ⟨State.bwInv_placeBits hb n value, ho⟩
  | split n value hv hl hn => exact ⟨State.bwInv_splitBits s n value, State.outInv_splitBits ho n value⟩
  | flush hl => exact ⟨State.bwInv_pushWord s, State.outInv_pushWord ho⟩
  | encode c hc tgt ch base stride fc dbase ds dp hop =>
    obtain ⟨hacc, hleft, hout⟩ := encoded_bitWriter c tgt ch base stride fc dbase ds dp s
    unfold State.bwInv State.outInv
    rw [hacc, hleft, hout]
    exact hs
  | begin => exact ⟨⟨le_rfl, rfl⟩, rfl⟩
  | _ => exact hs

/-- Settles O54: each update of the bit writer is an update of O12 to O14. -/
theorem stepKeepsBitWriter : Obligations.StepKeepsBitWriter := by
  intro s t hb ho h
  refine step_keeps (P := fun s => s.bwInv ∧ s.outInv) (fun _ _ h => h)
    (fun _ _ _ => exec_keeps (fun _ _ => Update.bitWriter) (fun _ _ h _ => h) fun _ _ => ⟨⟨le_rfl, rfl⟩, rfl⟩)
    (fun _ _ _ h => h) (fun m u v hu hm h => ?_) ⟨hb, ho⟩ h
  obtain ⟨_, _, _, _, _, _, rfl⟩ := hostAct_frame hm h
  exact hu

/-! ## The quantisation error (R24, R33) -/

theorem State.channel_congr {s t : State} (h : s.ch = t.ch) (c : Nat) : s.channel c = t.channel c := by
  unfold State.channel; rw [h]

theorem State.qerrInv_putChannel {s : State} (h : s.qerrInv) {n : Nat} {v : Channel} (hv : v.qerr = 0) :
    (s.putChannel n v).qerrInv := fun c => by
  rw [State.channel_putChannel]
  split_ifs
  · exact hv
  · exact h c

theorem Update.quantError {s t : State} (hs : s.qerrInv ∧ s.fcQscale = 1) (h : Update s t) :
    t.qerrInv ∧ t.fcQscale = 1 := by
  obtain ⟨hq, hscale⟩ := id hs
  cases h with
  | clearChannel ch => exact ⟨State.qerrInv_putChannel hq rfl, hscale⟩
  | encode c hc tgt ch base stride fc dbase ds dp hop =>
    have bank := encoded_ch c tgt ch base stride fc dbase ds dp s
    refine ⟨fun d => ?_, ?_⟩
    · rw [State.channel_congr bank d]
      refine State.qerrInv_putChannel hq ?_ d
      exact hq ch
    · obtain ⟨_, _, _, _, _, _, _, _, _, frame⟩ := encoded_frame c tgt ch base stride fc dbase ds dp s
      rw [frame]
      exact hscale
  | _ => exact hs

/-- Settles O56: AD.RESET writes a zero error, and AD.ENCODE the one its channel had. -/
theorem stepKeepsQuantErrorZero : Obligations.StepKeepsQuantErrorZero := by
  intro s t hq hscale h
  refine step_keeps (P := fun s => s.qerrInv ∧ s.fcQscale = 1) (fun _ _ h => h)
    (fun _ _ _ => exec_keeps (fun _ _ => Update.quantError) (fun _ _ h _ => h) fun _ _ => ⟨fun _ => rfl, rfl⟩)
    (fun _ _ _ h => h) (fun m u v hu hm h => ?_) ⟨hq, hscale⟩ h
  obtain ⟨_, _, _, _, _, _, rfl⟩ := hostAct_frame hm h
  exact hu

/-! ## `FAULT` and `PHASE` (R43, R281, R325)

A change of phase by a stream command happens in a clean state alone. -/

/-- A chain of updates, and of changes of phase in clean states. -/
inductive CleanReach : State → State → Prop where
  | refl (s : State) : CleanReach s s
  | updates {s t u : State} : CleanReach s t → Reach t u → CleanReach s u
  | phase {s t : State} (p : Phase) : CleanReach s t → t.fault = false → p ≠ .faulted → CleanReach s (t.setPhase p)

theorem CleanReach.trans {s t u : State} (h : CleanReach s t) (k : CleanReach t u) : CleanReach s u := by
  induction k with
  | refl => exact h
  | updates _ hu ih => exact .updates ih hu
  | phase p _ hf hp ih => exact .phase p ih hf hp

theorem CleanReach.keeps {P : State → Prop} (hP : ∀ s t, P s → Update s t → P t)
    (hp : ∀ s p, P s → s.fault = false → p ≠ Phase.faulted → P (s.setPhase p)) {s t : State} (h : CleanReach s t)
    (hs : P s) : P t := by
  induction h with
  | refl => exact hs
  | updates _ hu ih => exact hu.keeps hP ih
  | phase p _ hf hne ih => exact hp _ p ih hf hne

theorem CleanReach.forEach {α : Type} {f : α → State → Result} (xs : List α)
    (hf : ∀ x s t, s.fault = false → f x s = .next t → CleanReach s t) {s t : State} (h0 : s.fault = false)
    (h : Machine.forEach xs f s = .next t) : CleanReach s t := by
  induction xs generalizing s with
  | nil => rw [forEach_nil] at h; injection h with h; exact h ▸ .refl s
  | cons x xs ih =>
    rcases andThen_eq_next h with ⟨u, hu, hu0, ht⟩ | ⟨hu, -⟩
    · exact (hf x s u h0 hu).trans (ih hu0 ht)
    · exact hf x s t h0 hu

/-- How a stream command ends: in a fault, or in DONE. -/
structure StreamEnds (s t : State) : Prop where
  chain : CleanReach s t
  ends : t.fault = true ∨ t.phase = .done

theorem StreamEnds.of_faulted {s t : State} (h : Faulted s t) : StreamEnds s t := by
  refine ⟨.updates (.refl s) h.reach, .inl ?_⟩
  obtain ⟨_, _, rfl⟩ := h
  rfl

theorem StreamEnds.after {s t u : State} (h : CleanReach s t) (k : StreamEnds t u) : StreamEnds s u :=
  ⟨h.trans k.chain, k.ends⟩

theorem chunkLoop_ends {n : Nat} {body : Nat → State → Result} (hb : ∀ i s t, body i s = .next t → Reach s t)
    {s t : State} (h0 : s.fault = false) (h : chunkLoop n body s = .next t) : StreamEnds s t := by
  have chunks : ∀ u, forEach (List.range n) (fun i s => body i (s.finalizeAt (i + 1 == n))) s = .next u →
      CleanReach s u := fun u hu => by
    refine CleanReach.forEach _ (fun i x y hx hxy => ?_) h0 hu
    refine CleanReach.trans ?_ (.updates (.refl _) (hb i _ _ hxy))
    unfold State.finalizeAt
    split_ifs
    · exact .phase .finalize (.refl x) hx (by decide)
    · exact .refl x
  rcases andThen_eq_next h with ⟨u, hu, hu0, ht⟩ | ⟨hu, hf⟩
  · injection ht with ht
    subst ht
    exact ⟨.phase .done (chunks u hu) hu0 (by decide), .inr rfl⟩
  · exact ⟨chunks t hu, .inl hf⟩

/-- The start of a stream, and what follows it. -/
theorem startStream_ends {c : Config} {f : State → Result} {s t : State}
    (h : andThen (startStream c s) f = .next t)
    (hf : ∀ u, u.fault = false → f u = .next t → StreamEnds u t) : StreamEnds s t := by
  have starts : ∀ u, startStream c s = .next u → Faulted s u ∨ CleanReach s u := fun u hu => by
    unfold startStream needInit at hu
    split_ifs at hu with h1
    · obtain ⟨o, hu⟩ := cfgValid_eq_next hu
      cases o with
      | some k => exact .inl (.of_raise hu)
      | none =>
        obtain ⟨-, hu⟩ := need_eq_next hu
        rcases andThen_eq_next hu with ⟨v, hv, hv0, ht⟩ | ⟨hv, -⟩
        · injection ht with ht
          subst ht
          have cleared : Reach s { v with fcFrameIndex := c.firstFrame } :=
            .tail (Reach.forEach _ (fun _ _ _ _ => adReset_reach) hv) (.frameIndex v _)
          exact .inr (.phase .encoding (.updates (.refl s) cleared) hv0 (by decide))
        · exact .inr (.updates (.refl s) (Reach.forEach _ (fun _ _ _ _ => adReset_reach) hv))
    · exact .inl (.of_raise hu)
  rcases andThen_eq_next h with ⟨u, hu, hu0, ht⟩ | ⟨hu, hfault⟩
  · rcases starts u hu with ⟨_, _, rfl⟩ | hr
    · cases hu0
    · exact .after hr (hf u hu0 ht)
  · rcases starts t hu with hfail | hr
    · exact .of_faulted hfail
    · exact ⟨hr, .inl hfault⟩

theorem xaChunk_reach {c : Config} (hc : Sizes c) {format : Format} {ch total n : Nat} {s t : State}
    (h : xaChunk c format ch total n s = .next t) : Reach s t := by
  refine Reach.andThen h (fun u hu => xaSector_reach hc hu) fun u hu => ?_
  refine Reach.andThen hu (fun v hv => ite_next_reach hv fun _ => scStamp_reach hc) fun v hv => ?_
  exact Reach.andThen hv (fun w hw => scEdc_reach hw) fun w hw => scEmit_reach hc hw

theorem exec_mx_ends {i : Instr} {s t : State} (hi : i.mx = true) (h0 : s.fault = false) (h : exec i s = .next t) :
    StreamEnds s t := by
  have ran : ∀ {r : Result}, exec i s = unlessFaulted s r → r = .next t := fun e => by
    rwa [e, unlessFaulted_ok h0] at h
  cases i with
  | mxXa =>
    refine startStream_ends (ran rfl) fun u hu0 hu => ?_
    obtain ⟨-, hu⟩ := need_eq_next hu
    obtain ⟨-, hu⟩ := need_eq_next hu
    exact chunkLoop_ends (fun _ _ _ => xaChunk_reach hw_sizes) hu0 hu
  | mxSpu =>
    refine startStream_ends (ran rfl) fun u hu0 hu => ?_
    obtain ⟨-, hu⟩ := need_eq_next hu
    obtain ⟨-, hu⟩ := need_eq_next hu
    obtain ⟨-, hu⟩ := need_eq_next hu
    dsimp only at hu
    split_ifs at hu
    · exact .after (.updates (.refl u) (Update.emit u _).reach)
        (chunkLoop_ends (fun _ _ _ => spuUnit_reach hw_sizes) hu0 hu)
    · exact chunkLoop_ends (fun _ _ _ => spuUnit_reach hw_sizes) hu0 hu
  | mxSpui =>
    refine startStream_ends (ran rfl) fun u hu0 hu => ?_
    obtain ⟨-, hu⟩ := need_eq_next hu
    obtain ⟨-, hu⟩ := need_eq_next hu
    obtain ⟨-, hu⟩ := need_eq_next hu
    obtain ⟨-, hu⟩ := need_eq_next hu
    dsimp only at hu
    split_ifs at hu
    · obtain ⟨-, hu⟩ := need_eq_next hu
      exact .after (.updates (.refl u) (Update.emit u _).reach)
        (chunkLoop_ends (fun _ _ _ => spuiChunk_reach hw_sizes) hu0 hu)
    · exact chunkLoop_ends (fun _ _ _ => spuiChunk_reach hw_sizes) hu0 hu
  | mxStr =>
    refine startStream_ends (ran rfl) fun u hu0 hu => ?_
    obtain ⟨-, hu⟩ := need_eq_next hu
    obtain ⟨-, hu⟩ := need_eq_next hu
    obtain ⟨-, -, hu⟩ := needSize_eq_next hu
    exact chunkLoop_ends (fun _ _ _ => strGroup_reach hw_sizes) hu0 hu
  | mxIso2raw =>
    have h := ran rfl
    unfold mxIso2raw needInit at h
    split_ifs at h
    · exact .of_faulted (.of_raise h)
    · exact .after (.phase .encoding (.refl s) h0 (by decide))
        (chunkLoop_ends (fun _ _ _ => rawSector_reach hw_sizes) (s := s.setPhase .encoding) h0 h)
    · exact .of_faulted (.of_raise h)
  | _ => cases hi

/-! ### The fault registers -/

theorem State.faultInv_fail (s : State) (cause : Cause) (info : Nat) : (s.fail cause info).faultInv :=
  ⟨⟨fun _ => rfl, fun _ => rfl⟩, fun _ => ⟨rfl, rfl, cause.code_range⟩⟩

theorem State.faultInv_setPhase {s : State} (hf : s.fault = false) {p : Phase} (hp : p ≠ .faulted) :
    (s.setPhase p).faultInv := by
  have clean : ¬ (s.setPhase p).fault = true := by rw [State.setPhase_fault, hf]; decide
  exact ⟨⟨fun h => absurd h clean, fun h => absurd h hp⟩, fun h => absurd h clean⟩

/-- Every update but fault entry leaves `FAULT`, `PHASE` and the fault registers alone. -/
theorem Update.fault_or_frame {s t : State} (h : Update s t) :
    Faulted s t ∨ (t.fault = s.fault ∧ t.phase = s.phase ∧ t.fcause = s.fcause ∧ t.finfo = s.finfo) := by
  cases h with
  | fail cause info => exact .inl ⟨cause, info, rfl⟩
  | encode c hc tgt ch base stride fc dbase ds dp hop =>
    obtain ⟨_, _, _, _, _, _, _, _, _, frame⟩ := encoded_frame c tgt ch base stride fc dbase ds dp s
    rw [frame]
    exact .inr ⟨rfl, rfl, rfl, rfl⟩
  | _ => exact .inr ⟨rfl, rfl, rfl, rfl⟩

theorem Update.faultInv {s t : State} (hs : s.faultInv) (h : Update s t) : t.faultInv := by
  rcases h.fault_or_frame with ⟨cause, info, rfl⟩ | ⟨hf, hp, hc, hi⟩
  · exact s.faultInv_fail cause info
  · unfold State.faultInv
    rw [hf, hp, hc, hi]
    exact hs

theorem Update.phaseInv {s t : State} (hs : s.phaseInv) (h : Update s t) : t.phaseInv := by
  rcases h.fault_or_frame with ⟨cause, info, rfl⟩ | ⟨-, hp, -⟩
  · exact .inr (.inr rfl)
  · unfold State.phaseInv
    rwa [hp]

theorem State.faultInv_resetKeepingHost (s : State) : (s.resetKeepingHost Config.hw).faultInv :=
  State.faultInv_setPhase (s := s.resetKeepingHost Config.hw) rfl (p := .init) (by decide)

theorem exec_keeps_faultInv {i : Instr} {s t : State} (hs : s.faultInv) (h : exec i s = .next t) : t.faultInv := by
  by_cases hr : i = .sysReset
  · subst hr
    injection h with h
    exact h ▸ s.faultInv_resetKeepingHost
  by_cases hf : s.fault = true
  · rw [exec_faulted hr hf] at h
    injection h with h
    exact h ▸ hs
  have hf : s.fault = false := by simpa using hf
  cases hi : i.mx with
  | false => exact (exec_reach hi hr h).keeps (fun _ _ => Update.faultInv) hs
  | true =>
    exact (exec_mx_ends hi hf h).chain.keeps (fun _ _ => Update.faultInv)
      (fun _ _ _ hf hp => State.faultInv_setPhase hf hp) hs

theorem exec_keeps_phaseInv {i : Instr} {s t : State} (hs : s.faultInv ∧ s.phaseInv) (h : exec i s = .next t) :
    t.phaseInv := by
  have fault := exec_keeps_faultInv hs.1 h
  by_cases hr : i = .sysReset
  · subst hr
    injection h with h
    exact h ▸ .inl rfl
  by_cases hf : s.fault = true
  · rw [exec_faulted hr hf] at h
    injection h with h
    exact h ▸ hs.2
  have hf : s.fault = false := by simpa using hf
  cases hi : i.mx with
  | false => exact (exec_reach hi hr h).keeps (fun _ _ => Update.phaseInv) hs.2
  | true =>
    rcases (exec_mx_ends hi hf h).ends with hfault | hdone
    · exact .inr (.inr (fault.1.1 hfault))
    · exact .inr (.inl hdone)

theorem hostAct_keeps_registers {m : HostMove} {s t : State} (hm : ∀ c, m ≠ .command c) (h : hostAct m s = .next t)
    (hs : s.faultInv ∧ s.phaseInv) : t.faultInv ∧ t.phaseInv := by
  obtain ⟨_, _, _, _, _, _, rfl⟩ := hostAct_frame hm h
  exact hs

/-- Settles O55: fault entry writes all four registers, and a stream command ends in DONE or in a fault. -/
theorem stepKeepsFaultAndPhase : Obligations.StepKeepsFaultAndPhase := fun _ _ hfault hphase h =>
  step_keeps (P := fun s => s.faultInv ∧ s.phaseInv) (fun _ _ h => h)
    (fun _ _ _ hs h => ⟨exec_keeps_faultInv hs.1 h, exec_keeps_phaseInv hs h⟩)
    (fun s c i _ => ⟨s.faultInv_fail c i, .inr (.inr rfl)⟩) (fun _ _ _ hs hm h => hostAct_keeps_registers hm h hs)
    ⟨hfault, hphase⟩ h

/-- A unit command that ends clean leaves the phase. -/
theorem exec_unit_phase {i : Instr} {s t : State} (hi : i.mx = false) (hr : i ≠ .sysReset) (h : exec i s = .next t) :
    t.fault = true ∨ t.phase = s.phase := by
  refine (exec_reach hi hr h).keeps (P := fun u => u.fault = true ∨ u.phase = s.phase) (fun u v hu hv => ?_) (.inr rfl)
  rcases hv.fault_or_frame with ⟨_, _, rfl⟩ | ⟨hf, hp, -⟩
  · exact .inl rfl
  · rwa [hf, hp]

/-- Settles O59: a stream command ends in DONE or in a fault, and no update of a unit command moves the phase. -/
theorem onlyMxCommandsMovePhase : Obligations.OnlyMxCommandsMovePhase := by
  intro i s t hr h ht
  have clean : ¬ t.fault = true := by rw [ht]; decide
  cases hi : i.mx with
  | false => exact (exec_unit_phase hi hr h).resolve_left clean
  | true =>
    have hf : s.fault = false := by
      by_contra hf
      rw [exec_faulted hr (by simpa using hf)] at h
      injection h with h
      subst h
      exact hf ht
    exact (exec_mx_ends hi hf h).ends.resolve_left clean

/-! ## Reset (R46, R350) -/

/-- Settles O57: nothing is listed, and the registers have their reset values. -/
theorem resetMeetsTheInvariants : Obligations.ResetMeetsTheInvariants := by
  obtain ⟨hsec, hscr, hdmx, hrgba, hiso, hdata⟩ := State.reset_memory_wf
  exact ⟨⟨hsec, hscr, hdmx, hrgba, hiso, hdata, rfl, rfl, rfl⟩,
    State.storeInv_resetKeepingHost State.reset, fun h => absurd h Bool.false_ne_true, ⟨le_rfl, rfl⟩, rfl,
    State.faultInv_setPhase (s := State.reset) rfl (p := .init) (by decide), .inl rfl, fun _ => rfl, rfl⟩

theorem State.atReset_resetKeepingHost (s : State) : (s.resetKeepingHost Config.hw).AtReset where
  ch := fun _ => rfl
  adpcm := ⟨rfl, rfl, rfl, rfl, rfl⟩
  bw := ⟨rfl, rfl, rfl⟩
  fc := ⟨rfl, rfl, rfl⟩
  blocks := ⟨rfl, fun _ => rfl, fun _ => rfl⟩
  bytes := ⟨fun _ => rfl, fun _ => rfl, fun _ => rfl, rfl⟩
  cfg := ⟨rfl, rfl, rfl, rfl, rfl, rfl, rfl, rfl, rfl, rfl, rfl⟩
  phase := rfl
  fault := ⟨rfl, rfl, rfl⟩
  tbuilt := rfl

/-- The table of R46 says nothing of the host's buffers and the model's own fields. -/
theorem State.AtReset.congr {s t : State} (h : s.AtReset) (pcm : List Sample) (rgba iso data : Memory)
    (sink : List Byte) (epoch : Nat) (moves : List HostMove)
    (ht : t = { s with pcm := pcm, rgba := rgba, iso := iso, data := data, sink := sink, epoch := epoch,
                       moves := moves }) : t.AtReset := by
  subst ht
  obtain ⟨h1, h2, h3, h4, h5, h6, h7, h8, h9, h10⟩ := h
  exact ⟨h1, h2, h3, h4, h5, h6, h7, h8, h9, h10⟩

/-- Settles O8: every field has its reset value, from every state. -/
theorem resetGivesTheTable : Obligations.ResetGivesTheTable :=
  ⟨(State.atReset_resetKeepingHost State.reset).congr [] ⟨0, []⟩ ⟨0, []⟩ ⟨0, []⟩ [] 0 [] rfl,
    fun s => ⟨_, rfl, s.atReset_resetKeepingHost, rfl, rfl, rfl, rfl, rfl, rfl⟩⟩

/-! ## The host's buffers (R40, R60, R328) -/

/-- What no update changes: the host's buffers but `DATA`, the settings and the pending actions. -/
structure KeepsHost (s t : State) : Prop where
  pcm : t.pcm = s.pcm
  rgba : t.rgba = s.rgba
  iso : t.iso = s.iso
  moves : t.moves = s.moves
  cfg : t.cfg = s.cfg

theorem KeepsHost.trans {s t u : State} (h : KeepsHost s t) (k : KeepsHost t u) : KeepsHost s u :=
  ⟨k.pcm.trans h.pcm, k.rgba.trans h.rgba, k.iso.trans h.iso, k.moves.trans h.moves, k.cfg.trans h.cfg⟩

theorem Update.keepsHost {s t : State} (h : Update s t) : KeepsHost s t := by
  cases h with
  | encode c hc tgt ch base stride fc dbase ds dp hop =>
    obtain ⟨_, _, _, _, _, _, _, _, _, frame⟩ := encoded_frame c tgt ch base stride fc dbase ds dp s
    rw [frame]
    exact ⟨rfl, rfl, rfl, rfl, rfl⟩
  | _ => exact ⟨rfl, rfl, rfl, rfl, rfl⟩

theorem exec_keepsHost {i : Instr} {s t : State} (hi : i ≠ .sysReset) (h : exec i s = .next t) : KeepsHost s t :=
  (exec_reachPhase hi h).keeps (P := KeepsHost s) (fun _ _ hs hu => hs.trans hu.keepsHost)
    (fun _ _ hs _ => hs.trans ⟨rfl, rfl, rfl, rfl, rfl⟩) ⟨rfl, rfl, rfl, rfl, rfl⟩

theorem Update.sink {s t : State} (h : Update s t) : s.sink <+: t.sink := by
  cases h with
  | emit bs => exact ⟨bs, rfl⟩
  | encode c hc tgt ch base stride fc dbase ds dp hop =>
    obtain ⟨_, _, _, _, _, _, _, _, _, frame⟩ := encoded_frame c tgt ch base stride fc dbase ds dp s
    rw [frame]
  | _ => exact ⟨[], List.append_nil _⟩

theorem exec_sink {i : Instr} {s t : State} (h : exec i s = .next t) : s.sink <+: t.sink :=
  exec_keeps (P := fun u => s.sink <+: u.sink) (fun _ _ hs hu => hs.trans hu.sink) (fun _ _ h _ => h) (fun _ h => h)
    (List.prefix_refl _) h

theorem step_sink {s t : State} (h : step s = .next t) : s.sink <+: t.sink := by
  refine step_keeps (P := fun u => s.sink <+: u.sink) (fun _ _ h => h) (fun _ _ _ hs h => hs.trans (exec_sink h))
    (fun _ _ _ h => h) (fun m u v hu hm h => ?_) (List.prefix_refl _) h
  obtain ⟨_, _, _, _, _, _, rfl⟩ := hostAct_frame hm h
  exact hu

/-- Settles O58: no update takes from `SINK` or touches a host buffer but `DATA`, which AD.ENCODE alone writes. -/
theorem commandsLeaveHostBuffers : Obligations.CommandsLeaveHostBuffers := by
  refine ⟨fun _ _ => step_sink, fun i s t h => ?_⟩
  by_cases hi : i = .sysReset
  · subst hi
    injection h with h
    subst h
    exact ⟨rfl, rfl, rfl, rfl, fun hne => absurd rfl hne, fun _ => rfl⟩
  · have host := exec_keepsHost hi h
    exact ⟨host.pcm, host.rgba, host.iso, host.moves, fun _ => host.cfg,
      fun hne => (KeepsBlocksAndData.exec hne h).data⟩

/-! ## SC.TABLES and the start of a stream (R245, R281) -/

/-- Settles O36: the built mark is one field. -/
theorem tablesSetTheBuiltMark : Obligations.TablesSetTheBuiltMark := by
  intro s hf
  have runs : exec .scTables s = .next { s with tbuilt := true } := unlessFaulted_ok hf _
  refine ⟨runs, fun hb => runs.trans ?_⟩
  rw [← hb]

theorem needInit_of_ne {s : State} (h : s.phase ≠ .init) (r : Result) :
    needInit s r = raise .phaseViolation s.phase.code s := if_neg h

theorem needInit_of_init {s : State} (h : s.phase = .init) (r : Result) : needInit s r = r := if_pos h

theorem startStream_of_ne {c : Config} {s : State} (h : s.phase ≠ .init) (f : State → Result) :
    andThen (startStream c s) f = raise .phaseViolation s.phase.code s := by
  rw [startStream, needInit_of_ne h]
  rfl

theorem exec_mx_of_ne {i : Instr} {s : State} (hi : i.mx = true) (hf : s.fault = false) (h : s.phase ≠ .init) :
    exec i s = raise .phaseViolation s.phase.code s := by
  cases i with
  | mxXa => exact (unlessFaulted_ok hf _).trans (startStream_of_ne h _)
  | mxSpu => exact (unlessFaulted_ok hf _).trans (startStream_of_ne h _)
  | mxSpui => exact (unlessFaulted_ok hf _).trans (startStream_of_ne h _)
  | mxStr => exact (unlessFaulted_ok hf _).trans (startStream_of_ne h _)
  | mxIso2raw => exact (unlessFaulted_ok hf _).trans (needInit_of_ne h _)
  | _ => cases hi

/-- Settles O47: the check of the phase comes first, and records the phase's number. -/
theorem streamsStartInInitOnly : Obligations.StreamsStartInInitOnly := by
  intro s i hf hi fail
  have violation : ∀ p, p ≠ Phase.init → s.phase = p → exec i s = fail p.code := fun p hp e => by
    subst e
    exact exec_mx_of_ne hi hf hp
  exact ⟨violation .encoding (by decide), violation .finalize (by decide), violation .done (by decide)⟩

end Sys2Proof.Machine
end

section
/-! SUPPORT. The ADPCM Encoder, continued (spec/41_adpcm.md): the sample step, the least shift, the trial against its
reference decoder, what AD.ENCODE commits, and the operand faults: O18, O19, O20, O23, O24, O60. -/

namespace Sys2Proof.Machine

/-! ## Samples and prediction (R61, R152, R153) -/

theorem State.sample_eq (s : State) (base stride i : Nat) :
    s.sample base stride i = ((s.pcm[base + i * stride]?).getD 0).toInt := by
  rw [State.sample, List.getD_eq_getElem?_getD]

theorem State.samples_length (s : State) (base stride : Nat) : (s.samples Config.hw base stride).length = 28 := by
  simp [State.samples]

theorem State.samples_getD (s : State) (base stride : Nat) {i : Nat} (hi : i < 28) :
    (s.samples Config.hw base stride).getD i 0 = s.sample base stride i := getD_map_range_of_lt _ _ hi

theorem predict_hw (f : Nat) (p1 p2 : Int) : predict Config.hw f p1 p2 =
    (Config.tableK1.getD f 0 * p1 + Config.tableK2.getD f 0 * p2 + 32) / 64 := by
  rw [predict, hw_k1, hw_k2, hw_predShift, Int.shiftRight_eq_div_pow]
  norm_num

/-- Settles O60: the fetch reads the list, and the coefficients are the table's. -/
theorem sampleFetchAndPrediction : Obligations.SampleFetchAndPrediction := by
  refine ⟨fun s base stride i => ⟨fun x hx => ?_, fun hi => ?_⟩, fun s base stride =>
    ⟨s.samples_length base stride, fun i hi => s.samples_getD base stride hi⟩, fun p1 p2 => ?_⟩
  · rw [State.sample_eq, hx, Option.getD_some]
  · rw [State.sample_eq, List.getElem?_eq_none hi]
    rfl
  · simp only [predict_hw, Config.tableK1, Config.tableK2, List.getD_cons_zero, List.getD_cons_succ]
    refine ⟨?_, ?_, ?_, ?_, ?_⟩ <;> omega

/-- A sample of `PCM` has 16 bits. -/
theorem State.sample_range (s : State) (base stride i : Nat) :
    -32768 ≤ s.sample base stride i ∧ s.sample base stride i ≤ 32767 := by
  have low := BitVec.le_toInt (s.pcm.getD (base + i * stride) 0)
  have high := BitVec.toInt_lt (x := s.pcm.getD (base + i * stride) 0)
  unfold State.sample
  omega

theorem State.samples_range (s : State) (base stride : Nat) :
    ∀ x ∈ s.samples Config.hw base stride, -32768 ≤ x ∧ x ≤ 32767 := fun x hx => by
  obtain ⟨i, -, rfl⟩ := List.mem_map.1 hx
  exact s.sample_range base stride i

/-! ## Histories (R155, R159) -/

theorem before1_succ (y : Int) (ys : List Int) (p1 : Int) (i : Nat) : before1 (y :: ys) p1 (i + 1) = before1 ys y i := by
  cases i <;> rfl

theorem before2_succ (y : Int) (ys : List Int) (p1 p2 : Int) (i : Nat) :
    before2 (y :: ys) p1 p2 (i + 1) = before2 ys y p1 i := by
  match i with
  | 0 => rfl
  | 1 => rfl
  | _ + 2 => rfl

/-- The residual of sample `i` of `xs` against the history `ys` with the seed `p1`, `p2`. -/
def residualFrom (f : Nat) (p1 p2 : Int) (xs ys : List Int) (i : Nat) : Int :=
  xs.getD i 0 - predict Config.hw f (before1 ys p1 i) (before2 ys p1 p2 i)

theorem residualAt_eq (f : Nat) (v : Channel) (xs ys : List Int) (i : Nat) :
    residualAt f v xs ys i = residualFrom f v.prev1.toInt v.prev2.toInt xs ys i := rfl

theorem residualFrom_zero (f : Nat) (p1 p2 x : Int) (xs ys : List Int) :
    residualFrom f p1 p2 (x :: xs) ys 0 = x - predict Config.hw f p1 p2 := rfl

theorem residualFrom_succ (f : Nat) (p1 p2 x y : Int) (xs ys : List Int) (i : Nat) :
    residualFrom f p1 p2 (x :: xs) (y :: ys) (i + 1) = residualFrom f y p1 xs ys i := by
  rw [residualFrom, before1_succ, before2_succ, List.getD_cons_succ, residualFrom]

/-! ## AD.MINSHIFT (R155) -/

theorem shiftRight_le_iff (z : Int) (m : Nat) : z >>> m ≤ 7 ↔ z < 8 * 2 ^ m := by
  rw [Int.shiftRight_eq_div_pow, ← Int.lt_add_one_iff]
  exact Int.ediv_lt_iff_lt_mul (by positivity)

theorem le_shiftRight_iff (z : Int) (m : Nat) : -8 ≤ z >>> m ↔ -8 * 2 ^ m ≤ z := by
  rw [Int.shiftRight_eq_div_pow]
  exact Int.le_ediv_iff_mul_le (by positivity)

/-- The extremes fit after a shift exactly if every residual does. -/
theorem fitsShift_residualRange (f : Nat) (xs : List Int) (p1 p2 emin emax : Int) (m : Nat) :
    fitsShift (residualRange Config.hw f xs p1 p2 emin emax).1 (residualRange Config.hw f xs p1 p2 emin emax).2 m = true ↔
      (-8 ≤ emin >>> m ∧ emax >>> m ≤ 7) ∧ ∀ i, i < xs.length →
        -8 ≤ residualFrom f p1 p2 xs xs i >>> m ∧ residualFrom f p1 p2 xs xs i >>> m ≤ 7 := by
  induction xs generalizing p1 p2 emin emax with
  | nil =>
    rw [residualRange, fitsShift, Bool.and_eq_true, decide_eq_true_eq, decide_eq_true_eq]
    simp [and_comm]
  | cons x xs ih =>
    have extremes : (-8 ≤ min emin (x - predict Config.hw f p1 p2) >>> m ∧
        max emax (x - predict Config.hw f p1 p2) >>> m ≤ 7) ↔ (-8 ≤ emin >>> m ∧ emax >>> m ≤ 7) ∧
          (-8 ≤ (x - predict Config.hw f p1 p2) >>> m ∧ (x - predict Config.hw f p1 p2) >>> m ≤ 7) := by
      simp only [shiftRight_le_iff, le_shiftRight_iff]
      omega
    rw [residualRange, ih, extremes, and_assoc]
    refine and_congr_right fun _ => ⟨fun ⟨h0, h⟩ i hi => ?_, fun h => ⟨h 0 (by simp), fun i hi => ?_⟩⟩
    · cases i with
      | zero => exact h0
      | succ i =>
        rw [residualFrom_succ]
        exact h i (by simpa using hi)
    · have := h (i + 1) (by simpa using hi)
      rwa [residualFrom_succ] at this

theorem leastShift_spec (emin emax : Int) : leastShift Config.hw emin emax ≤ 12 ∧
    (leastShift Config.hw emin emax < 12 → fitsShift emin emax (leastShift Config.hw emin emax) = true) ∧
    ∀ k, k < leastShift Config.hw emin emax → ¬ fitsShift emin emax k = true := by
  refine ⟨leastShift_le Config.hw emin emax, ?_⟩
  unfold leastShift
  rw [hw_shiftMax]
  cases found : (List.range 12).find? (fitsShift emin emax) with
  | none =>
    refine ⟨fun h => absurd h (by simp), fun k hk => ?_⟩
    exact List.find?_eq_none.1 found k (List.mem_range.2 hk)
  | some m =>
    obtain ⟨fits, front, back, split, before⟩ := List.find?_eq_some_iff_append.1 found
    refine ⟨fun _ => fits, fun k hk => ?_⟩
    have hm : m < 12 := List.mem_range.1 (List.mem_of_find?_eq_some found)
    have sorted : (front ++ m :: back).Pairwise (· < ·) := split ▸ List.pairwise_lt_range
    have mem : k ∈ front ++ m :: back := by
      rw [← split]
      exact List.mem_range.2 (hk.trans hm)
    have after : ∀ a ∈ m :: back, m ≤ a := fun a ha => by
      rcases List.mem_cons.1 ha with rfl | ha
      · exact le_rfl
      · exact le_of_lt (List.rel_of_pairwise_cons (List.pairwise_append.1 sorted).2.1 ha)
    rcases List.mem_append.1 mem with hfront | hback
    · simpa using before k hfront
    · exact absurd (after k hback) (by simpa using hk)

theorem fitsShift_iff_blockFits (f : Nat) (v : Channel) {xs : List Int} (hl : xs.length = 28) (m : Nat) :
    let e := residualRange Config.hw f xs v.prev1.toInt v.prev2.toInt 0 0
    fitsShift e.1 e.2 m = true ↔ blockFits f v xs m := by
  have zero : -8 ≤ (0 : Int) >>> m ∧ (0 : Int) >>> m ≤ 7 := by
    rw [Int.zero_shiftRight]
    decide
  refine (fitsShift_residualRange f xs _ _ 0 0 m).trans ?_
  rw [hl]
  exact and_iff_right zero

theorem exec_adMinshift (c base stride f : Nat) {s : State} (hf : s.fault = false) :
    exec (.adMinshift c base stride f) s = adMinshift Config.hw c base stride f s := unlessFaulted_ok hf _

theorem checkFilter_of_inside {c stride f : Nat} {s : State} (hw : s.cfg.channels.written = true)
    (hc : c < s.cfg.channels.val) (hstride : 1 ≤ stride) (hf5 : f < 5) (r : Result) :
    checkFilter Config.hw c stride f s r = r := by
  rw [checkFilter, checkChannel_of_lt hw hc, hw_nfilt, if_neg (by omega), if_neg (by omega)]

/-- Settles O18: the first shift whose extremes fit is the first under which every residual does. -/
theorem minShiftIsTheLeastThatFits : Obligations.MinShiftIsTheLeastThatFits := by
  intro s c base stride f hf hw hc hstride hf5
  have fits := fitsShift_iff_blockFits f (s.channel c) (s.samples_length base stride)
  obtain ⟨le, fit, least⟩ := leastShift_spec
    (residualRange Config.hw f (s.samples Config.hw base stride) (s.channel c).prev1.toInt (s.channel c).prev2.toInt 0 0).1
    (residualRange Config.hw f (s.samples Config.hw base stride) (s.channel c).prev1.toInt (s.channel c).prev2.toInt 0 0).2
  refine ⟨minShiftOf Config.hw (s.channel c) (s.samples Config.hw base stride) f, ?_, le, fun h => (fits _).1 (fit h),
    fun k hk h => least k hk ((fits k).2 h)⟩
  rw [exec_adMinshift c base stride f hf, adMinshift, checkFilter_of_inside hw hc hstride hf5]

/-! ## One sample step (R158) -/

theorem clamp_range {x lo hi : Int} (h : lo ≤ hi) : lo ≤ clamp x lo hi ∧ clamp x lo hi ≤ hi := by
  unfold clamp
  split_ifs <;> omega

theorem clamp_of_inside {x lo hi : Int} (hlo : lo ≤ x) (hhi : x ≤ hi) : clamp x lo hi = x := by
  unfold clamp
  split_ifs <;> omega

theorem quantize_range (r : Nat) (e : Int) : -8 ≤ quantize r e ∧ quantize r e ≤ 7 := clamp_range (by decide)

theorem rebuild_range (r : Nat) (q p : Int) : -32768 ≤ rebuild r q p ∧ rebuild r q p ≤ 32767 := clamp_range (by decide)

/-- The quotient fits the nibble exactly. -/
theorem toInt_nibble (r : Nat) (e : Int) : (BitVec.ofInt 4 (quantize r e)).toInt = quantize r e := by
  obtain ⟨low, high⟩ := quantize_range r e
  rw [BitVec.toInt_ofInt]
  exact Int.bmod_eq_of_le (by omega) (by omega)

theorem toInt_sample {x : Int} (h : -32768 ≤ x ∧ x ≤ 32767) : (BitVec.ofInt 16 x).toInt = x := by
  rw [BitVec.toInt_ofInt]
  exact Int.bmod_eq_of_le (by omega) (by omega)

/-! ## The reference decoder (R171) -/

theorem decodeBlock_length (c : Config) (f r : Nat) (ns : List Nibble) (d1 d2 : Int) :
    (decodeBlock c f r ns d1 d2).length = ns.length := by
  induction ns generalizing d1 d2 with
  | nil => rfl
  | cons n ns ih => rw [decodeBlock, List.length_cons, ih, List.length_cons]

/-- Each decoded sample is rebuilt from its nibble and the two samples before it. -/
theorem decodeBlock_getD (f r : Nat) (ns : List Nibble) (d1 d2 : Int) {i : Nat} (hi : i < ns.length) :
    let ys := decodeBlock Config.hw f r ns d1 d2
    ys.getD i 0 = rebuild r (ns.getD i 0).toInt (predict Config.hw f (before1 ys d1 i) (before2 ys d1 d2 i)) := by
  induction ns generalizing d1 d2 i with
  | nil => cases hi
  | cons n ns ih =>
    cases i with
    | zero => rfl
    | succ i =>
      intro ys
      have step := ih (rebuild r n.toInt (predict Config.hw f d1 d2)) d1 (i := i) (by simpa using hi)
      simp only [ys, decodeBlock, before1_succ, before2_succ, List.getD_cons_succ]
      exact step

theorem decodeBlock_range (f r : Nat) (ns : List Nibble) (d1 d2 : Int) {i : Nat} (hi : i < ns.length) :
    -32768 ≤ (decodeBlock Config.hw f r ns d1 d2).getD i 0 ∧ (decodeBlock Config.hw f r ns d1 d2).getD i 0 ≤ 32767 := by
  rw [decodeBlock_getD f r ns d1 d2 hi]
  exact rebuild_range r _ _

/-! ## The trial (R159 to R161) -/

/-- The nibbles of a trial over `xs` from the seed `p1`, `p2` (R159). -/
def trialNibs (f r : Nat) : List Int → Int → Int → List Nibble
  | [], _, _ => []
  | x :: xs, p1, p2 =>
    let q := quantize r (x - predict Config.hw f p1 p2)
    BitVec.ofInt 4 q :: trialNibs f r xs (rebuild r q (predict Config.hw f p1 p2)) p1

theorem trialNibs_length (f r : Nat) (xs : List Int) (p1 p2 : Int) : (trialNibs f r xs p1 p2).length = xs.length := by
  induction xs generalizing p1 p2 with
  | nil => rfl
  | cons x xs ih => rw [trialNibs, List.length_cons, ih, List.length_cons]

/-- The samples the decoder rebuilds from a trial's nibbles (R171). -/
def trialSamples (f r : Nat) (xs : List Int) (p1 p2 : Int) : List Int :=
  decodeBlock Config.hw f r (trialNibs f r xs p1 p2) p1 p2

theorem trialSamples_cons (f r : Nat) (x : Int) (xs : List Int) (p1 p2 : Int) :
    let y := rebuild r (quantize r (x - predict Config.hw f p1 p2)) (predict Config.hw f p1 p2)
    trialSamples f r (x :: xs) p1 p2 = y :: trialSamples f r xs y p1 := by
  simp only [trialSamples, trialNibs, decodeBlock, toInt_nibble]

theorem trialSamples_length (f r : Nat) (xs : List Int) (p1 p2 : Int) : (trialSamples f r xs p1 p2).length = xs.length := by
  rw [trialSamples, decodeBlock_length, trialNibs_length]

/-- Each nibble is the quotient of the residual against the decoder's samples. -/
theorem trialNibs_getD (f r : Nat) (xs : List Int) (p1 p2 : Int) {i : Nat} (hi : i < xs.length) :
    ((trialNibs f r xs p1 p2).getD i 0).toInt =
      quantize r (residualFrom f p1 p2 xs (trialSamples f r xs p1 p2) i) := by
  induction xs generalizing p1 p2 i with
  | nil => cases hi
  | cons x xs ih =>
    cases i with
    | zero => rw [trialNibs, List.getD_cons_zero, toInt_nibble, residualFrom_zero]
    | succ i =>
      rw [trialSamples_cons, residualFrom_succ, trialNibs, List.getD_cons_succ]
      exact ih _ _ (by simpa using hi)

/-- The cost of a trial: the squared errors of the rebuilt samples (R161). -/
def squaredErrors (xs ys : List Int) : Nat := ((xs.zip ys).map fun p => ((p.2 - p.1) * (p.2 - p.1)).toNat).sum

/-- The trial keeps the decoder's samples: its last two, its nibbles and its cost. -/
theorem foldl_trialStep (f r : Nat) (xs : List Int) (t : Trial) :
    let ys := trialSamples f r xs t.p1 t.p2
    xs.foldl (trialStep Config.hw f r 0) t =
      ⟨before1 ys t.p1 xs.length, before2 ys t.p1 t.p2 xs.length, t.cost + squaredErrors xs ys,
        t.nibs ++ trialNibs f r xs t.p1 t.p2⟩ := by
  induction xs generalizing t with
  | nil => simp [before1, before2, squaredErrors, trialNibs]
  | cons x xs ih =>
    have step : trialStep Config.hw f r 0 t x =
        ⟨rebuild r (quantize r (x - predict Config.hw f t.p1 t.p2)) (predict Config.hw f t.p1 t.p2), t.p1,
          t.cost + ((rebuild r (quantize r (x - predict Config.hw f t.p1 t.p2)) (predict Config.hw f t.p1 t.p2) - x) *
            (rebuild r (quantize r (x - predict Config.hw f t.p1 t.p2)) (predict Config.hw f t.p1 t.p2) - x)).toNat,
          t.nibs ++ [BitVec.ofInt 4 (quantize r (x - predict Config.hw f t.p1 t.p2))]⟩ := by
      simp [trialStep, sampleStep]
    intro ys
    rw [List.foldl_cons, step, ih]
    simp only [ys, trialSamples_cons, List.length_cons, before1_succ, before2_succ, squaredErrors, List.zip_cons_cons,
      List.map_cons, List.sum_cons, trialNibs, List.append_assoc, List.singleton_append, Nat.add_assoc]

theorem trialOf_eq {v : Channel} (hq : v.qerr = 0) (xs : List Int) (f r : Nat) :
    let ys := trialSamples f r xs v.prev1.toInt v.prev2.toInt
    trialOf Config.hw v xs f r = ⟨before1 ys v.prev1.toInt xs.length, before2 ys v.prev1.toInt v.prev2.toInt xs.length,
      squaredErrors xs ys, trialNibs f r xs v.prev1.toInt v.prev2.toInt⟩ := by
  rw [trialOf, hq, foldl_trialStep]
  simp only [Nat.zero_add, List.nil_append]

theorem trialStep_nibs_length (c : Config) (f r : Nat) (qerr : BitVec 32) (xs : List Int) (t : Trial) :
    (xs.foldl (trialStep c f r qerr) t).nibs.length = t.nibs.length + xs.length := by
  induction xs generalizing t with
  | nil => rfl
  | cons x xs ih =>
    rw [List.foldl_cons, ih, trialStep, List.length_append, List.length_singleton, List.length_cons]
    omega

/-- A candidate has one nibble for each sample. -/
theorem candOf_nib_length (c : Config) (v : Channel) (xs : List Int) (f r : Nat) :
    (candOf c v xs f r).nib.length = xs.length := by
  refine (trialStep_nibs_length c f r v.qerr xs _).trans ?_
  exact Nat.zero_add _

/-- The square of an error of two 16-bit samples. -/
theorem square_lt {x y : Int} (hx : -32768 ≤ x ∧ x ≤ 32767) (hy : -32768 ≤ y ∧ y ≤ 32767) :
    ((y - x) * (y - x)).toNat < 2 ^ 32 := by
  have small : (y - x).natAbs ≤ 65535 := by omega
  have square : (y - x) * (y - x) = (((y - x).natAbs * (y - x).natAbs : Nat) : Int) := by
    rw [Int.natCast_mul, Int.natAbs_mul_self']
  rw [square, Int.toNat_natCast]
  calc (y - x).natAbs * (y - x).natAbs ≤ 65535 * 65535 := Nat.mul_le_mul small small
    _ < 2 ^ 32 := by norm_num

theorem squaredErrors_le {xs ys : List Int} (hx : ∀ x ∈ xs, -32768 ≤ x ∧ x ≤ 32767)
    (hy : ∀ y ∈ ys, -32768 ≤ y ∧ y ≤ 32767) : squaredErrors xs ys ≤ xs.length * 2 ^ 32 := by
  have bound : ∀ z ∈ (xs.zip ys).map fun p => ((p.2 - p.1) * (p.2 - p.1)).toNat, z ≤ 2 ^ 32 := fun z hz => by
    obtain ⟨p, hp, rfl⟩ := List.mem_map.1 hz
    obtain ⟨h1, h2⟩ := List.of_mem_zip (a := p.1) (b := p.2) hp
    exact (square_lt (hx _ h1) (hy _ h2)).le
  refine (List.sum_le_card_nsmul _ _ bound).trans ?_
  rw [List.length_map, List.length_zip, smul_eq_mul]
  exact Nat.mul_le_mul_right _ (Nat.min_le_left _ _)

theorem squaredErrors_eq_sum {xs ys : List Int} {n : Nat} (hx : xs.length = n) (hy : ys.length = n) :
    (squaredErrors xs ys : Int) = ((List.range n).map fun i => (ys.getD i 0 - xs.getD i 0) ^ 2).sum := by
  have entries : (List.range n).map (fun i => (ys.getD i 0 - xs.getD i 0) ^ 2) =
      (xs.zip ys).map fun p => ((((p.2 - p.1) * (p.2 - p.1)).toNat : Nat) : Int) := by
    refine List.ext_getElem (by simp [hx, hy]) fun i h1 h2 => ?_
    have hi : i < n := by simpa using h1
    simp only [List.getElem_map, List.getElem_range, List.getElem_zip]
    rw [List.getD_eq_getElem _ _ (by omega), List.getD_eq_getElem _ _ (by omega), Int.toNat_of_nonneg (mul_self_nonneg _), sq]
  rw [entries, squaredErrors, Nat.cast_list_sum, List.map_map]
  rfl

/-- What a candidate holds, told through the decoder of R171 (R159 to R161). -/
structure FollowsDecoder (f r : Nat) (v : Channel) (xs : List Int) (x : Cand) : Prop where
  qerr : x.qerr = 0
  length : x.nib.length = 28
  nibble : ∀ i, i < 28 → (x.nib.getD i 0).toInt = quantize r (residualAt f v xs
    (decodeBlock Config.hw f r x.nib v.prev1.toInt v.prev2.toInt) i)
  prev1 : x.prev1.toInt = (decodeBlock Config.hw f r x.nib v.prev1.toInt v.prev2.toInt).getD 27 0
  prev2 : x.prev2.toInt = (decodeBlock Config.hw f r x.nib v.prev1.toInt v.prev2.toInt).getD 26 0
  cost : (x.mse.toNat : Int) = ((List.range 28).map fun i =>
    ((decodeBlock Config.hw f r x.nib v.prev1.toInt v.prev2.toInt).getD i 0 - xs.getD i 0) ^ 2).sum

theorem candOf_followsDecoder {v : Channel} (hq : v.qerr = 0) {xs : List Int} (hl : xs.length = 28)
    (hx : ∀ x ∈ xs, -32768 ≤ x ∧ x ≤ 32767) (f r : Nat) : FollowsDecoder f r v xs (candOf Config.hw v xs f r) := by
  have lengths : (trialNibs f r xs v.prev1.toInt v.prev2.toInt).length = 28 := by rw [trialNibs_length, hl]
  have rebuilt : ∀ {i}, i < 28 → -32768 ≤ (trialSamples f r xs v.prev1.toInt v.prev2.toInt).getD i 0 ∧
      (trialSamples f r xs v.prev1.toInt v.prev2.toInt).getD i 0 ≤ 32767 := fun hi =>
    decodeBlock_range f r _ _ _ (lengths.symm ▸ hi)
  have rebuilt_mem : ∀ y ∈ trialSamples f r xs v.prev1.toInt v.prev2.toInt, -32768 ≤ y ∧ y ≤ 32767 := fun y hy => by
    obtain ⟨i, hi, rfl⟩ := List.mem_iff_getElem.1 hy
    rw [← List.getD_eq_getElem _ 0 hi]
    exact rebuilt (by rwa [trialSamples_length, hl] at hi)
  have small : squaredErrors xs (trialSamples f r xs v.prev1.toInt v.prev2.toInt) < 2 ^ 64 := by
    have := squaredErrors_le hx rebuilt_mem
    rw [hl] at this
    omega
  have cand : candOf Config.hw v xs f r = ⟨0,
      BitVec.ofInt 16 ((trialSamples f r xs v.prev1.toInt v.prev2.toInt).getD 27 0),
      BitVec.ofInt 16 ((trialSamples f r xs v.prev1.toInt v.prev2.toInt).getD 26 0),
      BitVec.ofNat 64 (squaredErrors xs (trialSamples f r xs v.prev1.toInt v.prev2.toInt)),
      trialNibs f r xs v.prev1.toInt v.prev2.toInt⟩ := by
    rw [candOf, trialOf_eq hq, hl, carriedError_hw, hq]
    rfl
  rw [cand]
  refine ⟨rfl, lengths, fun i hi => ?_, toInt_sample (rebuilt (by decide)), toInt_sample (rebuilt (by decide)), ?_⟩
  · exact trialNibs_getD f r xs _ _ (hl ▸ hi)
  · rw [BitVec.toNat_ofNat, Nat.mod_eq_of_lt small]
    exact squaredErrors_eq_sum hl (by rw [trialSamples_length, hl])

theorem exec_adTrial (c base stride f r : Nat) {s : State} (hf : s.fault = false) :
    exec (.adTrial c base stride f r) s = adTrial Config.hw c base stride f r s := unlessFaulted_ok hf _

/-- Settles O19: the running state of the trial is that of the decoder. -/
theorem trialFollowsTheReconstruction : Obligations.TrialFollowsTheReconstruction := by
  intro s c base stride f r hf hw hc hstride hf5 hr hq
  have h := candOf_followsDecoder hq (s.samples_length base stride) (s.samples_range base stride) f r
  refine ⟨candOf Config.hw (s.channel c) (s.samples Config.hw base stride) f r, ?_, h.qerr, h.length, h.nibble, h.prev1,
    h.prev2, h.cost⟩
  rw [exec_adTrial c base stride f r hf, adTrial, checkFilter_of_inside hw hc hstride hf5, hw_shiftMax,
    if_neg (by omega)]

/-! ## AD.ENCODE (R63, R166, R168) -/

/-- A target buffer replaced. -/
def State.withTarget (s : State) (t : Target) (m : Memory) : State :=
  match t with
  | .data => { s with data := m }
  | .sec => { s with sec := m }
  | .scr => { s with scr := m }

/-- Committing nibbles rewrites the target buffer alone, and keeps its size. -/
theorem putNibbles_eq_withTarget (c : Config) (s : State) (t : Target) (d ds dp : Nat) (nibs : List Nibble) :
    ∃ m, s.putNibbles c t d ds dp nibs = s.withTarget t m ∧ (s.withTarget t m).targetSize t = s.targetSize t := by
  unfold State.putNibbles
  generalize (laneAddrs c d dp).zip nibs = ps
  induction ps generalizing s with
  | nil => cases t <;> exact ⟨_, rfl, rfl⟩
  | cons p ps ih =>
    obtain ⟨m, h, size⟩ := ih (State.putNibble t ds s p)
    rw [List.foldl_cons, h]
    rw [State.putNibble, State.targetSize_putTarget] at size
    cases t <;> exact ⟨m, rfl, size⟩

/-- The half byte outside the lane keeps its value. -/
theorem withNibble_other (old : Byte) (nib : Nibble) {ds : Nat} (h : ds = 0 ∨ ds = 4) :
    (withNibble old ds nib >>> (4 - ds)).setWidth 4 = (old >>> (4 - ds)).setWidth 4 := by
  refine BitVec.eq_of_getLsbD_eq fun i hi => ?_
  rcases h with rfl | rfl
  · interval_cases i <;> simp [withNibble]
  · interval_cases i <;> simp [withNibble]

theorem State.targetByte_putNibbles_of_not_mem (c : Config) (s : State) {t : Target} {ds dbase dp a : Nat}
    (nibs : List Nibble) (h : a ∉ laneAddrs c dbase dp) :
    (s.putNibbles c t dbase ds dp nibs).targetByte t a = s.targetByte t a := by
  refine State.targetByte_foldl_putNibble_of_not_mem (fun hm => h ?_) s
  obtain ⟨p, hp, rfl⟩ := List.mem_map.1 hm
  exact (List.of_mem_zip (a := p.1) (b := p.2) hp).1

/-- The pair a search commits is one it tried. -/
theorem searchBest_tried (v : Channel) (xs : List Int) {fc : Nat} (h1 : 1 ≤ fc) :
    (searchBest Config.hw v xs fc).f < fc ∧ (searchBest Config.hw v xs fc).r ≤ 12 := by
  obtain ⟨p, hp, e⟩ := searchBest_firstLeast Config.hw v xs h1
  rw [e]
  obtain ⟨hf, hr, -, -⟩ := mem_searchPairs.1 (show (p.1, p.2) ∈ _ from hp.mem)
  exact ⟨hf, hr⟩

theorem headerByte_eq {f r : Nat} (hr : r < 16) : headerByte f r = BitVec.ofNat 8 (16 * f + r) := by
  have low : r &&& 0xF = r := by
    rw [show (0xF : Nat) = 2 ^ 4 - 1 from rfl, Nat.and_two_pow_sub_one_eq_mod, Nat.mod_eq_of_lt hr]
  rw [headerByte, low, Nat.or_comm, ← Nat.shiftLeft_add_eq_or_of_lt (show r < 2 ^ 4 from hr), Nat.shiftLeft_eq, Nat.mul_comm]

section
variable {s : State} {c base stride fc dbase ds dp : Nat}

/-- What AD.ENCODE commits, in the terms of `encodeBlock`. -/
theorem encoded_eq (t : Target) (s : State) (c base stride fc dbase ds dp : Nat) :
    let block := encodeBlock fc (s.channel c) (s.samples Config.hw base stride)
    s.encoded Config.hw t c base stride fc dbase ds dp =
      (s.putNibbles Config.hw t dbase ds dp block.2.nib).commitBlock c (s.channel c)
        (minShiftOf Config.hw (s.channel c) (s.samples Config.hw base stride) (fc - 1)) block.1 block.2 := rfl

theorem encodeBlock_nib_length (fc : Nat) (v : Channel) {xs : List Int} (h : xs.length = 28) :
    (encodeBlock fc v xs).2.nib.length = 28 := (candOf_nib_length Config.hw v xs _ _).trans h

theorem encodeBlock_tried (v : Channel) (xs : List Int) (h1 : 1 ≤ fc) :
    (encodeBlock fc v xs).1.f < fc ∧ (encodeBlock fc v xs).1.r ≤ 12 := searchBest_tried v xs h1

/-- A channel after AD.ENCODE (R168). -/
theorem encoded_channel (t : Target) (s : State) (c base stride fc dbase ds dp d : Nat) :
    (s.encoded Config.hw t c base stride fc dbase ds dp).channel d =
      if d = c then nextChannel fc (s.channel c) (s.samples Config.hw base stride) else s.channel d := by
  rw [State.channel_congr (encoded_ch Config.hw t c base stride fc dbase ds dp s) d, State.channel_putChannel]
  rfl

theorem State.targetByte_commitBlock (s : State) (n : Nat) (v : Channel) (m : Nat) (b : Best) (x : Cand) (t : Target)
    (a : Nat) : (s.commitBlock n v m b x).targetByte t a = s.targetByte t a := by cases t <;> rfl

/-- The header byte holds the pair (R100). -/
theorem encoded_header (t : Target) (s : State) (c base stride dbase ds dp : Nat) (h1 : 1 ≤ fc) :
    let block := encodeBlock fc (s.channel c) (s.samples Config.hw base stride)
    (s.encoded Config.hw t c base stride fc dbase ds dp).adHdr =
      .put (BitVec.ofNat 8 (16 * block.1.f + block.1.r)) := by
  have tried := (encodeBlock_tried (s.channel c) (s.samples Config.hw base stride) h1).2
  rw [encoded_eq, State.commitBlock_adHdr, headerByte_eq (by omega)]

/-- The target byte of nibble `i` after AD.ENCODE. -/
theorem encoded_targetByte {t : Target} (hdp : 1 ≤ dp) {i : Nat} (hi : i < 28) :
    (s.encoded Config.hw t c base stride fc dbase ds dp).targetByte t (dbase + i * dp) =
      withNibble (s.targetByte t (dbase + i * dp)) ds
        ((encodeBlock fc (s.channel c) (s.samples Config.hw base stride)).2.nib.getD i 0) := by
  rw [encoded_eq, State.targetByte_commitBlock]
  exact State.targetByte_putNibbles Config.hw s dbase hdp
    (encodeBlock_nib_length fc (s.channel c) (s.samples_length base stride)) hi

theorem encoded_targetByte_other {t : Target} {a : Nat} (h : ∀ i, i < 28 → a ≠ dbase + i * dp) :
    (s.encoded Config.hw t c base stride fc dbase ds dp).targetByte t a = s.targetByte t a := by
  rw [encoded_eq, State.targetByte_commitBlock]
  refine State.targetByte_putNibbles_of_not_mem Config.hw s _ fun hm => ?_
  obtain ⟨i, hi, e⟩ := (mem_laneAddrs hw_sizes).1 hm
  exact h i hi e

end

/-- Settles O20: the lane of each nibble, the channel, and the registers of the committed pair. -/
theorem encodeCommitsNibblesAndState : Obligations.EncodeCommitsNibblesAndState := by
  intro s c base stride fc dbase ds dp hf hw hc hstride hfc1 hfc5 hds hdp hin
  obtain ⟨m, hm, size⟩ := putNibbles_eq_withTarget Config.hw s .data dbase ds dp
    (encodeBlock fc (s.channel c) (s.samples Config.hw base stride)).2.nib
  have commits := encoded_eq .data s c base stride fc dbase ds dp
  have lane : ∀ i, i < 28 → (s.encoded Config.hw .data c base stride fc dbase ds dp).dataByte (dbase + i * dp) =
      withNibble (s.dataByte (dbase + i * dp)) ds _ := fun i hi => encoded_targetByte (t := .data) hdp hi
  refine ⟨_, (encodeBlock fc (s.channel c) (s.samples Config.hw base stride)).1,
    (encodeBlock fc (s.channel c) (s.samples Config.hw base stride)).2,
    exec_adEncode hf hw ⟨hc, hstride, ⟨hfc1, hfc5⟩, hds, hdp, hin⟩, rfl, fun i hi => ?_, fun a ha => ?_, ?_, ?_, fun d hd => ?_,
    rfl, rfl, rfl, ?_, ?_⟩
  · rw [lane i hi]
    exact ⟨withNibble_lane _ _ hds, withNibble_other _ _ hds⟩
  · exact encoded_targetByte_other (t := .data) ha
  · rw [commits, hm]
    exact size
  · rw [encoded_channel, if_pos rfl]
    rfl
  · rw [encoded_channel, if_neg hd]
  · exact encoded_header .data s c base stride dbase ds dp hfc1
  · rw [commits, hm]
    rfl

/-- The rounded quotient is within half a step. -/
theorem half_step (e : Int) {r : Nat} (hr : 1 ≤ r) :
    ((e + (2 : Int) ^ (r - 1)) >>> r * 2 ^ r - e).natAbs ≤ 2 ^ (r - 1) := by
  have step : (2 : Int) ^ r = 2 * 2 ^ (r - 1) := by rw [← pow_succ', Nat.sub_add_cancel hr]
  have pos : (0 : Int) < 2 ^ r := by positivity
  have below := Int.ediv_mul_le (e + (2 : Int) ^ (r - 1)) pos.ne'
  have above := Int.lt_ediv_add_one_mul_self (e + (2 : Int) ^ (r - 1)) pos
  have cast : ((2 ^ (r - 1) : Nat) : Int) = (2 : Int) ^ (r - 1) := by push_cast; rfl
  rw [Int.shiftRight_eq_div_pow]
  push_cast
  generalize (e + (2 : Int) ^ (r - 1)) / 2 ^ r = q at *
  rw [add_mul, one_mul] at above
  generalize q * (2 : Int) ^ r = z at *
  omega

/-- A sample where no clamp acts comes back within half a step, and exactly without a shift (R172). -/
theorem FollowsDecoder.unclamped {f r : Nat} {v : Channel} {xs : List Int} {x : Cand} (h : FollowsDecoder f r v xs x)
    {i : Nat} (hi : i < 28) :
    let ys := decodeBlock Config.hw f r x.nib v.prev1.toInt v.prev2.toInt
    let e := residualAt f v xs ys i
    let q := if r = 0 then e else (e + (2 : Int) ^ (r - 1)) >>> r
    q ≥ -8 → q ≤ 7 → -32768 ≤ q * 2 ^ r + (xs.getD i 0 - e) → q * 2 ^ r + (xs.getD i 0 - e) ≤ 32767 →
      (r = 0 → ys.getD i 0 = xs.getD i 0) ∧ (1 ≤ r → (ys.getD i 0 - xs.getD i 0).natAbs ≤ 2 ^ (r - 1)) := by
  intro ys e q hq1 hq2 hlow hhigh
  have nibble : (x.nib.getD i 0).toInt = q := (h.nibble i hi).trans (clamp_of_inside hq1 hq2)
  have prediction : predict Config.hw f (before1 ys v.prev1.toInt i) (before2 ys v.prev1.toInt v.prev2.toInt i) =
      xs.getD i 0 - e := by
    simp only [e, residualAt]
    omega
  have rebuilt : ys.getD i 0 = q * 2 ^ r + (xs.getD i 0 - e) := by
    rw [decodeBlock_getD f r _ _ _ (h.length.symm ▸ hi), nibble, prediction]
    exact clamp_of_inside hlow hhigh
  rw [rebuilt]
  refine ⟨fun h0 => ?_, fun h1 => ?_⟩
  · have quotient : q = e := if_pos h0
    rw [quotient, h0]
    omega
  · have quotient : q = (e + (2 : Int) ^ (r - 1)) >>> r := if_neg (by omega)
    have half := half_step e h1
    rw [← quotient] at half
    rwa [show q * 2 ^ r + (xs.getD i 0 - e) - xs.getD i 0 = q * 2 ^ r - e by omega]

/-- The nibbles read back from the lane of AD.ENCODE. -/
theorem encoded_nibbles {s : State} {c base stride fc dbase ds dp : Nat} (hds : ds = 0 ∨ ds = 4) (hdp : 1 ≤ dp) :
    ((List.range 28).map fun i =>
      ((s.encoded Config.hw .data c base stride fc dbase ds dp).dataByte (dbase + i * dp) >>> ds).setWidth 4) =
      (encodeBlock fc (s.channel c) (s.samples Config.hw base stride)).2.nib := by
  have length := encodeBlock_nib_length fc (s.channel c) (s.samples_length base stride)
  refine List.ext_getElem (by simp [length]) fun i h1 h2 => ?_
  have lane := congrArg (fun b : Byte => (b >>> ds).setWidth 4)
    (encoded_targetByte (s := s) (c := c) (base := base) (stride := stride) (fc := fc) (dbase := dbase) (ds := ds)
      (t := .data) hdp (length ▸ h2))
  rw [withNibble_lane _ _ hds, List.getD_eq_getElem _ _ h2] at lane
  simp only [List.getElem_map, List.getElem_range]
  exact lane

/-- Settles O23: the nibbles and the header read back are those of the candidate, which follows the decoder. -/
theorem encodeRoundTripsThroughTheDecoder : Obligations.EncodeRoundTripsThroughTheDecoder := by
  intro s c base stride fc dbase ds dp hf hw hc hstride hfc1 hfc5 hds hdp hin hq
  refine ⟨_, exec_adEncode hf hw ⟨hc, hstride, ⟨hfc1, hfc5⟩, hds, hdp, hin⟩, ?_⟩
  obtain ⟨tried_f, tried_r⟩ := encodeBlock_tried (s.channel c) (s.samples Config.hw base stride) hfc1
  have follows : FollowsDecoder (encodeBlock fc (s.channel c) (s.samples Config.hw base stride)).1.f
      (encodeBlock fc (s.channel c) (s.samples Config.hw base stride)).1.r (s.channel c)
      (s.samples Config.hw base stride) (encodeBlock fc (s.channel c) (s.samples Config.hw base stride)).2 :=
    candOf_followsDecoder hq (s.samples_length base stride) (s.samples_range base stride) _ _
  have nibs := encoded_nibbles (s := s) (c := c) (base := base) (stride := stride) (fc := fc) (dbase := dbase) hds hdp
  have committed : (s.encoded Config.hw .data c base stride fc dbase ds dp).channel c =
      nextChannel fc (s.channel c) (s.samples Config.hw base stride) := by rw [encoded_channel, if_pos rfl]
  have header := encoded_header .data s c base stride dbase ds dp hfc1
  rw [nibs, committed, header, nextChannel]
  generalize encodeBlock fc (s.channel c) (s.samples Config.hw base stride) = block at *
  have value : (Marked.put (BitVec.ofNat 8 (16 * block.1.f + block.1.r))).val.toNat = 16 * block.1.f + block.1.r :=
    Nat.mod_eq_of_lt (by omega)
  have filter : (16 * block.1.f + block.1.r) / 16 = block.1.f := by omega
  have shift : (16 * block.1.f + block.1.r) % 16 = block.1.r := by omega
  rw [value, filter, shift]
  refine ⟨follows.prev1, follows.prev2, fun i hi => ?_⟩
  rw [← s.samples_getD base stride hi]
  exact follows.unclamped hi

/-! ## The operand faults (R155, R159, R166) -/

section
variable {s : State} {c base stride f r fc dbase ds dp : Nat} (hw : s.cfg.channels.written = true)
include hw

theorem checkFilter_of_channel (hc : s.cfg.channels.val ≤ c) (x : Result) :
    checkFilter Config.hw c stride f s x = raise .adpcmOperand 0 s := checkChannel_of_le hw hc _

theorem checkFilter_of_filter (hc : c < s.cfg.channels.val) (hf : 5 ≤ f) (x : Result) :
    checkFilter Config.hw c stride f s x = raise .adpcmOperand 3 s := by
  rw [checkFilter, checkChannel_of_lt hw hc, hw_nfilt, if_pos hf]

theorem checkFilter_of_stride (hc : c < s.cfg.channels.val) (hf : f < 5) (x : Result) :
    checkFilter Config.hw c 0 f s x = raise .adpcmOperand 2 s := by
  rw [checkFilter, checkChannel_of_lt hw hc, hw_nfilt, if_neg (by omega), if_pos (by decide)]

/-- The checks of AD.ENCODE behind the channel's (R166; log 19). -/
theorem checkEncode_of_channel (t : Target) (hc : c < s.cfg.channels.val) (x : Result) :
    checkEncode Config.hw t c stride fc dbase ds dp s x =
      if fc < 1 ∨ 5 < fc then raise .adpcmOperand 3 s
      else if ds ≠ 0 ∧ ds ≠ 4 then raise .adpcmOperand 5 s
      else if stride < 1 then raise .adpcmOperand 2 s
      else if dp < 1 then raise .adpcmOperand 6 s
      else match (laneAddrs Config.hw dbase dp).find? (fun a => decide (s.targetSize t ≤ a)) with
        | some a => raise .addressRange a s
        | none => x := by
  rw [checkEncode, checkChannel_of_lt hw hc, hw_nfilt] <;> rfl

end

/-- A lane whose last nibble is outside the buffer has a first address outside it. -/
theorem find?_laneAddrs {n dbase dp : Nat} (h : n ≤ dbase + 27 * dp) :
    ∃ a, n ≤ a ∧ (laneAddrs Config.hw dbase dp).find? (fun a => decide (n ≤ a)) = some a := by
  cases found : (laneAddrs Config.hw dbase dp).find? (fun a => decide (n ≤ a)) with
  | none =>
    have inside := List.find?_eq_none.1 found (dbase + 27 * dp) ((mem_laneAddrs hw_sizes).2 ⟨27, by decide, rfl⟩)
    exact absurd h (by simpa using inside)
  | some a => exact ⟨a, by simpa using List.find?_some found, rfl⟩

theorem exec_adEncode_eq (c base stride fc dbase ds dp : Nat) {s : State} (hf : s.fault = false) :
    exec (.adEncode c base stride fc dbase ds dp) s = adEncode Config.hw .data c base stride fc dbase ds dp s :=
  unlessFaulted_ok hf _

/-- Settles O24: each check in its place, the ones before it passed. -/
theorem adpcmOperandFaults : Obligations.AdpcmOperandFaults := by
  intro s c base stride f r fc dbase ds dp hf hw fail lane
  rw [exec_adMinshift c base stride f hf, exec_adTrial c base stride f r hf,
    exec_adEncode_eq c base stride fc dbase ds dp hf, adMinshift, adTrial, adEncode]
  refine ⟨fun hc hstride => ⟨fun _ => checkFilter_of_channel hw hc _, fun _ _ => checkFilter_of_channel hw hc _,
    fun _ _ _ => checkChannel_of_le hw hc _⟩, fun hc => ?_⟩
  refine ⟨fun _ hf5 => ⟨checkFilter_of_filter hw hc hf5 _, fun _ => checkFilter_of_filter hw hc hf5 _⟩, ?_, ?_⟩
  · rintro rfl hf5
    exact ⟨checkFilter_of_stride hw hc hf5 _, fun _ => checkFilter_of_stride hw hc hf5 _⟩
  refine ⟨fun hstride hf5 hr => ?_, ?_⟩
  · rw [checkFilter_of_inside hw hc hstride hf5, hw_shiftMax, if_pos hr]
    rfl
  rw [checkEncode_of_channel hw .data hc]
  refine ⟨fun _ _ hfc => ?_, fun h0 hlane hfc1 hfc5 => ?_, fun _ hfc1 hfc5 _ _ h1 h2 => ?_,
    fun hstride hfc1 hfc5 hds _ h0 => ?_, fun hstride hfc1 hfc5 hds hdp hout => ?_⟩
  · rw [if_pos (by omega)]; rfl
  · obtain ⟨hds, -, -⟩ := hlane
    rw [if_neg (by omega), if_neg (by omega), if_pos (by omega)]; rfl
  · rw [if_neg (by omega), if_pos ⟨h1, h2⟩]; rfl
  · rw [if_neg (by omega), if_neg (by omega), if_neg (by omega), if_pos (by omega)]; rfl
  · obtain ⟨a, ha, found⟩ := find?_laneAddrs hout
    have found : (laneAddrs Config.hw dbase dp).find? (fun a => decide (s.targetSize .data ≤ a)) = some a := found
    refine ⟨a, ha, ?_⟩
    rw [if_neg (by omega), if_neg (by omega), if_neg (by omega), if_neg (by omega), found]
    rfl

end Sys2Proof.Machine
end

section
/-! SUPPORT. The DCT Video Block Encoder, continued (spec/42_dct_video.md): the colour transform, the black macroblock
and the demultiplexer: O26, O27, O34. -/

namespace Sys2Proof.Machine

/-! ## Runs of equal length -/

section
variable {α : Type} {L : Nat} {f : Nat → List α} (d : α)

theorem length_flatMap_range (n : Nat) (hf : ∀ j, j < n → (f j).length = L) : ((List.range n).flatMap f).length = L * n := by
  induction n with
  | zero => rfl
  | succ n ih =>
    rw [List.range_succ, List.flatMap_append, List.length_append, ih fun j hj => hf j (by omega), List.flatMap_singleton,
      hf n (by omega), Nat.mul_succ]

/-- Run `j` of `n` runs of `L` elements stands at `L * j`. -/
theorem getD_flatMap_range (n : Nat) (hf : ∀ j, j < n → (f j).length = L) {j i : Nat} (hj : j < n) (hi : i < L) :
    ((List.range n).flatMap f).getD (L * j + i) d = (f j).getD i d := by
  induction n with
  | zero => cases hj
  | succ n ih =>
    have front : ((List.range n).flatMap f).length = L * n := length_flatMap_range n fun j hj => hf j (by omega)
    have hf' : ∀ j, j < n → (f j).length = L := fun j hj => hf j (by omega)
    rw [List.range_succ, List.flatMap_append, List.flatMap_singleton, List.getD_eq_getElem?_getD]
    rcases Nat.lt_or_ge j n with hjn | hjn
    · have inside : L * j + i < L * n :=
        lt_of_lt_of_le (by rw [Nat.mul_succ]; omega) (Nat.mul_le_mul_left L (Nat.succ_le_of_lt hjn))
      rw [List.getElem?_append_left (by rw [front]; exact inside), ← List.getD_eq_getElem?_getD, ih hf' hjn]
    · obtain rfl : j = n := by omega
      rw [List.getElem?_append_right (by rw [front]; omega), front, Nat.add_sub_cancel_left, ← List.getD_eq_getElem?_getD]

end

/-! ## VD.CSC (R193, R194) -/

theorem exec_vdCsc (n mx my : Nat) {s : State} (hf : s.fault = false) :
    exec (.vdCsc n mx my) s = vdCsc Config.hw n mx my s := unlessFaulted_ok hf _

theorem vdCsc_of_inside (c : Config) {n mx my : Nat} {s : State} (hw : s.cfg.width.written = true)
    (hh : s.cfg.height.written = true) (hx : mx < macroblocks s.cfg.width.val) (hy : my < macroblocks s.cfg.height.val)
    (hn : frameEnd s.cfg.width.val s.cfg.height.val n ≤ s.rgba.size) : vdCsc c n mx my s =
      .next { s with mb := .put (macroblock c s s.cfg.width.val s.cfg.height.val n mx my) } := by
  rw [vdCsc, need_written hw, if_neg (by omega), need_written hh, if_neg (by omega), if_neg (by omega)]

theorem vdCsc_of_outside (c : Config) {n mx my : Nat} {s : State} (hw : s.cfg.width.written = true)
    (hh : s.cfg.height.written = true) (h : ¬ (mx < macroblocks s.cfg.width.val ∧ my < macroblocks s.cfg.height.val ∧
      frameEnd s.cfg.width.val s.cfg.height.val n ≤ s.rgba.size)) :
    ∃ info, vdCsc c n mx my s = raise .addressRange info s := by
  rw [vdCsc, need_written hw, need_written hh]
  by_cases hx : macroblocks s.cfg.width.val ≤ mx
  · exact ⟨mx, if_pos hx⟩
  by_cases hy : macroblocks s.cfg.height.val ≤ my
  · exact ⟨my, by rw [if_neg hx, if_pos hy]⟩
  · exact ⟨n, by rw [if_neg hx, if_neg hy, if_pos (by omega)]⟩

section
variable (c : Config) (s : State) (w h n mx my : Nat)

theorem macroblock_luma {b : Nat} (hb : 2 ≤ b) (hb6 : b < 6) :
    (macroblock c s w h n mx my).getD b [] = lumaBlock c s w h n mx my b := by
  obtain ⟨i, rfl⟩ : ∃ i, b = i + 2 := ⟨b - 2, by omega⟩
  rw [macroblock, List.getD_eq_getElem?_getD, List.getElem?_append_right (by simp), ← List.getD_eq_getElem?_getD]
  exact getD_map_range_of_lt (fun i => lumaBlock c s w h n mx my (i + 2)) [] (show i < 4 by omega)

theorem macroblock_block_length {b : Nat} (hb : b < 6) : ((macroblock c s w h n mx my).getD b []).length = 64 := by
  match b with
  | 0 => simp [macroblock, chromaBlock]
  | 1 => simp [macroblock, chromaBlock]
  | b + 2 => rw [macroblock_luma c s w h n mx my (by omega) hb]; simp [lumaBlock]

end

/-- Settles O26: element by element the blocks are maps over the pixels of R193. -/
theorem colourTransformFillsSixBlocks : Obligations.ColourTransformFillsSixBlocks := by
  intro s n mx my hf hw hh w h byte sum
  rw [exec_vdCsc n mx my hf]
  refine ⟨fun hx hy hn => ?_, fun hout => vdCsc_of_outside Config.hw hw hh hout⟩
  refine ⟨_, vdCsc_of_inside Config.hw hw hh hx hy hn, rfl, fun b hb => macroblock_block_length _ _ _ _ _ _ _ hb,
    fun k hk => ⟨⟨?_, ?_⟩, fun b hb hb6 => ?_⟩⟩
  · exact getD_map_range_of_lt _ _ hk
  · exact getD_map_range_of_lt _ _ hk
  · rw [macroblock_luma Config.hw s _ _ n mx my hb hb6]
    exact getD_map_range_of_lt _ _ hk

/-! ## The black macroblock (R196, R221) -/

theorem map_range_eq_replicate {α : Type} {f : Nat → α} {n : Nat} {v : α} (h : ∀ k, k < n → f k = v) :
    (List.range n).map f = List.replicate n v := by
  refine List.eq_replicate_iff.2 ⟨by simp, fun x hx => ?_⟩
  obtain ⟨k, hk, rfl⟩ := List.mem_map.1 hx
  exact h k (List.mem_range.1 hk)

/-- Every pixel of a macroblock is black. -/
def State.BlackAt (s : State) (w h n mx my : Nat) : Prop :=
  ∀ x y, 16 * mx ≤ x → x < 16 * mx + 16 → 16 * my ≤ y → y < 16 * my + 16 → s.pixel w h n x y = (0, 0, 0)

section
variable {s : State} {w h n mx my : Nat}

theorem State.BlackAt.pixelSum (hs : s.BlackAt w h n mx my) {k : Nat} (hk : k < 64) :
    s.pixelSum w h n mx my k = (0, 0, 0) := by
  have column : k % 8 < 8 := Nat.mod_lt _ (by decide)
  have row : k / 8 < 8 := by omega
  have black : ∀ i j, i < 2 → j < 2 →
      s.pixel w h n (16 * mx + 2 * (k % 8) + i) (16 * my + 2 * (k / 8) + j) = (0, 0, 0) :=
    fun i j _ _ => hs _ _ (by omega) (by omega) (by omega) (by omega)
  have corner : s.pixel w h n (16 * mx + 2 * (k % 8)) (16 * my + 2 * (k / 8)) = (0, 0, 0) :=
    black 0 0 (by decide) (by decide)
  have right : s.pixel w h n (16 * mx + 2 * (k % 8) + 1) (16 * my + 2 * (k / 8)) = (0, 0, 0) :=
    black 1 0 (by decide) (by decide)
  have below : s.pixel w h n (16 * mx + 2 * (k % 8)) (16 * my + 2 * (k / 8) + 1) = (0, 0, 0) :=
    black 0 1 (by decide) (by decide)
  simp only [State.pixelSum, corner, right, below, black 1 1 (by decide) (by decide)]

theorem State.BlackAt.chromaBlock (hs : s.BlackAt w h n mx my) {f : Nat → Nat → Nat → Int} (hf : f 0 0 0 = 0) :
    chromaBlock f s w h n mx my = List.replicate 64 0 := map_range_eq_replicate fun k hk => by
  simp only [hs.pixelSum hk, hf]

theorem State.BlackAt.lumaBlock (hs : s.BlackAt w h n mx my) {b : Nat} (hb : 2 ≤ b) (hb6 : b < 6) :
    lumaBlock Config.hw s w h n mx my b = List.replicate 64 (-0x200) := map_range_eq_replicate fun k hk => by
  have column : k % 8 < 8 := Nat.mod_lt _ (by decide)
  have right : (b - 2) % 2 < 2 := Nat.mod_lt _ (by decide)
  have black : s.pixel w h n (lumaX mx b k) (lumaY my b k) = (0, 0, 0) := by
    simp only [lumaX, lumaY]
    exact hs _ _ (by omega) (by omega) (by omega) (by omega)
  simp only [black, hw_csc_black.1, hw_lumaBias]
  rfl

theorem State.BlackAt.macroblock (hs : s.BlackAt w h n mx my) : macroblock Config.hw s w h n mx my =
    List.replicate 2 (List.replicate 64 0) ++ List.replicate 4 (List.replicate 64 (-0x200)) := by
  obtain ⟨-, hcr, hcb⟩ := hw_csc_black
  have luma : (List.range 4).map (fun i => Machine.lumaBlock Config.hw s w h n mx my (i + 2)) =
      List.replicate 4 (List.replicate 64 (-0x200)) :=
    map_range_eq_replicate fun i hi => hs.lumaBlock (by omega) (by omega)
  rw [Machine.macroblock, luma, hs.chromaBlock hcr, hs.chromaBlock hcb]
  rfl

end

/-- The two passes over a constant block leave its DC term, and rounding errors too small for the quantiser. -/
theorem dctPass_luma_black : dctPass Config.hw (List.replicate 64 (-0x200)) =
    List.replicate 8 (-5792) ++ List.replicate 56 0 := by decide

theorem dctPass_twice_luma_black : ∀ k, k < 64 → 1 ≤ k →
    ((dctPass Config.hw (List.replicate 8 (-5792) ++ List.replicate 56 0)).getD k 0).natAbs < 16 := by decide

theorem dctPass_zero : dctPass Config.hw (List.replicate 64 0) = List.replicate 64 0 := by decide

/-- No AC step of the quantiser is below 16 (R203). -/
theorem tableQuant_ac : ∀ k, k < 64 → 1 ≤ k → 16 ≤ Config.tableQuant.getD k 0 := by decide

theorem tdiv_eq_zero_of_natAbs_lt {z : Int} {d : Nat} (h : z.natAbs < d) : Int.tdiv z d = 0 := by
  rw [← Int.natAbs_eq_zero, Int.natAbs_tdiv, Int.natAbs_natCast]
  exact Nat.div_eq_of_lt h

theorem natAbs_tdiv_le (z : Int) (d : Nat) : (Int.tdiv z d).natAbs ≤ z.natAbs := by
  rw [Int.natAbs_tdiv]
  exact Nat.div_le_self _ _

/-- A coefficient whose quotient is 0 is 0. -/
theorem quantBlock_getD_eq_zero {x : Block} {k : Nat} (hk : k < 64)
    (h : Int.tdiv (x.getD k 0) (Config.tableQuant.getD k 0) = 0) : (quantBlock Config.hw x).getD k 0 = 0 := by
  refine BitVec.toInt_inj.1 ((quantBlock_getD x hk).trans ?_)
  rw [h, ite_self]
  rfl

theorem dctScale_getD (y : Block) {k : Nat} (hk : k < 64) : (dctScale Config.hw y).getD k 0 =
    Int.tdiv (if k = 0 then Int.tdiv (y.getD k 0) Config.hw.dcDiv else y.getD k 0) Config.hw.allDiv :=
  getD_map_range_of_lt _ _ hk

/-- Settles O27: the passes over a constant block are computed; the open divisors only make the rest smaller. -/
theorem blackMacroblockHasNoAc : Obligations.BlackMacroblockHasNoAc := by
  refine ⟨fun s n mx my hf hw hh hx hy hn hblack => ?_, fun k hk1 hk => ?_, fun k hk => ?_⟩
  · have black : s.BlackAt s.cfg.width.val s.cfg.height.val n mx my := fun x y h1 h2 h3 h4 => by
      have channel : ∀ i, i < 3 → (s.rgbaByte (pixelAddr s.cfg.width.val s.cfg.height.val n x y + i)).toNat = 0 :=
        fun i hi => congrArg BitVec.toNat (hblack x y i h1 h2 h3 h4 hi)
      exact Prod.ext (channel 0 (by decide)) (Prod.ext (channel 1 (by decide)) (channel 2 (by decide)))
    rw [exec_vdCsc n mx my hf, vdCsc_of_inside Config.hw hw hh hx hy hn, black.macroblock]
  · refine quantBlock_getD_eq_zero hk (tdiv_eq_zero_of_natAbs_lt ?_)
    rw [dctBlock, dctPass_luma_black, dctScale_getD _ hk, if_neg (by omega)]
    exact lt_of_le_of_lt (natAbs_tdiv_le _ _) (lt_of_lt_of_le (dctPass_twice_luma_black k hk hk1) (tableQuant_ac k hk hk1))
  · refine quantBlock_getD_eq_zero hk ?_
    rw [dctBlock, dctPass_zero, dctPass_zero, dctScale_getD _ hk, List.getD_replicate _ hk, Int.zero_tdiv, ite_self,
      Int.zero_tdiv, Int.zero_tdiv]

/-! ## VD.DEMUX (R215, R217) -/

/-- The bytes of a little-endian field spell its value. -/
theorem sum_digits (width value : Nat) :
    ((List.range width).map fun i => (value / 256 ^ i % 256) * 256 ^ i).sum = value % 256 ^ width := by
  induction width with
  | zero => simp [Nat.mod_one]
  | succ width ih =>
    rw [List.range_succ, List.map_append, List.sum_append, ih, List.map_singleton, List.sum_singleton, Nat.mod_pow_succ,
      Nat.mul_comm (256 ^ width)]

theorem leField_getD {width value i : Nat} (hv : value < 256 ^ width) (hi : i < width) :
    (leField width value).getD i 0 = BitVec.ofNat 8 (value / 256 ^ i) :=
  (getD_map_range_of_lt _ _ hi).trans (if_pos hv)

theorem State.dmxField_eq {s : State} {a width value : Nat} (hv : value < 256 ^ width)
    (h : ∀ i, i < width → s.dmxByte (a + i) = (leField width value).getD i 0) : s.dmxField a width = value := by
  have digits : (List.range width).map (fun i => (s.dmxByte (a + i)).toNat * 256 ^ i) =
      (List.range width).map fun i => (value / 256 ^ i % 256) * 256 ^ i := List.map_congr_left fun i hi => by
    have hi := List.mem_range.1 hi
    rw [h i hi, leField_getD hv hi, BitVec.toNat_ofNat]
  rw [State.dmxField, digits, sum_digits, Nat.mod_eq_of_lt hv]

/-- The state after VD.DEMUX. -/
def State.demuxed (s : State) : State :=
  { s with dmx := s.dmx.writeList 0 (demuxBytes Config.hw s s.cfg.width.val s.cfg.height.val),
           fcFrameIndex := s.fcFrameIndex + 1 }

theorem exec_vdDemux {s : State} (hf : s.fault = false) : exec .vdDemux s = vdDemux Config.hw s := unlessFaulted_ok hf _

theorem vdDemux_of_fits {s : State} (hw : s.cfg.width.written = true) (hh : s.cfg.height.written = true)
    (hl : s.out.length ≤ 14112) : vdDemux Config.hw s = .next s.demuxed := by
  have bytes : Config.hw.frameBytes = 14112 := rfl
  rw [vdDemux, bytes, if_neg (by omega), needSize_written hw hh]
  rfl

/-- Byte `i` of slot `j` of `DMX` after VD.DEMUX. -/
theorem State.dmxByte_demuxed (s : State) {j i : Nat} (hj : j < 7) (hi : i < 2048) : s.demuxed.dmxByte (2048 * j + i) =
    (chunkHeader Config.hw s s.cfg.width.val s.cfg.height.val j ++ chunkPayload Config.hw s.out j).getD i 0 := by
  have length := demuxBytes_length hw_sizes s s.cfg.width.val s.cfg.height.val
  have slots : ∀ j, j < 7 → (chunkHeader Config.hw s s.cfg.width.val s.cfg.height.val j ++
      chunkPayload Config.hw s.out j).length = 2048 := fun j _ => by
    rw [List.length_append, chunkHeader_length, chunkPayload_length hw_sizes]
  have inside : 2048 * j + i < (demuxBytes Config.hw s s.cfg.width.val s.cfg.height.val).length := by omega
  show ((s.dmx.writeList 0 _).read? _).getD _ = _
  rw [Memory.read_writeList, if_pos ⟨Nat.zero_le _, by omega⟩, Nat.sub_zero, List.getElem?_eq_getElem inside,
    Option.getD_some, ← List.getD_eq_getElem _ 0 inside]
  exact getD_flatMap_range 0 7 slots hj hi

theorem chunkPayload_getD (out : List Byte) (j : Nat) {i : Nat} (hi : i < 2016) :
    (chunkPayload Config.hw out j).getD i 0 = out.getD (2016 * j + i) 0 := by
  rw [chunkPayload, hw_chunkBytes, List.getD_eq_getElem?_getD, List.getD_eq_getElem?_getD]
  rcases Nat.lt_or_ge i ((out.drop (2016 * j)).take 2016).length with h | h
  · rw [List.getElem?_append_left h, List.getElem?_take, if_pos hi, List.getElem?_drop]
  · have beyond : out.length ≤ 2016 * j + i := by
      rw [List.length_take, List.length_drop] at h
      omega
    rw [List.getElem?_append_right h, List.getElem?_eq_none beyond, List.getElem?_replicate]
    split_ifs <;> rfl

theorem State.dmxByte_demuxed_payload (s : State) {j i : Nat} (hj : j < 7) (hi : i < 2016) :
    s.demuxed.dmxByte (2048 * j + 32 + i) = s.out.getD (2016 * j + i) 0 := by
  have header := chunkHeader_length Config.hw s s.cfg.width.val s.cfg.height.val j
  rw [Nat.add_assoc, s.dmxByte_demuxed hj (by omega), List.getD_eq_getElem?_getD,
    List.getElem?_append_right (by omega), header, Nat.add_sub_cancel_left, ← List.getD_eq_getElem?_getD,
    chunkPayload_getD _ _ hi]

/-! ### The fields of a header (R217) -/

/-- The widths and values of a header's fields, one after another (R217; log 18). -/
def headerFields (s : State) (w h j : Nat) : List (Nat × Nat) :=
  [(2, 0x0160), (2, 0x8001), (2, j), (2, 7), (4, s.fcFrameIndex), (4, s.out.length), (2, w), (2, h), (2, s.fcWords / 16),
    (2, 0x3800), (2, s.fcQscale), (2, 2), (4, 0)]

theorem chunkHeader_eq_flatMap (s : State) (w h j : Nat) :
    chunkHeader Config.hw s w h j = (headerFields s w h j).flatMap fun p => leField p.1 p.2 := by
  simp only [chunkHeader, headerFields, hw_hdrLayout, hw_nchunk, List.flatMap_cons, List.flatMap_nil, List.append_nil,
    List.append_assoc]

/-- Where field `k` of a list of fields stands. -/
theorem getD_flatMap_field {l : List (Nat × Nat)} {k width value i : Nat} (hk : l[k]? = some (width, value))
    (hi : i < width) : (l.flatMap fun p => leField p.1 p.2).getD (((l.take k).map Prod.fst).sum + i) 0 =
      (leField width value).getD i 0 := by
  induction l generalizing k with
  | nil => cases hk
  | cons p l ih =>
    have head : (leField p.1 p.2).length = p.1 := leField_length _ _
    rw [List.flatMap_cons, List.getD_eq_getElem?_getD]
    cases k with
    | zero =>
      obtain rfl : p = (width, value) := Option.some.inj hk
      rw [List.take_zero, List.map_nil, List.sum_nil, Nat.zero_add, List.getElem?_append_left (by omega),
        ← List.getD_eq_getElem?_getD]
    | succ k =>
      have tail := ih (k := k) hk
      rw [List.take_succ_cons, List.map_cons, List.sum_cons, Nat.add_assoc, List.getElem?_append_right (by omega), head,
        Nat.add_sub_cancel_left, ← List.getD_eq_getElem?_getD, tail]

/-- A field of the header of slot `j` (R217). -/
theorem State.dmxField_demuxed (s : State) {j o k width value : Nat} (hj : j < 7)
    (hk : (headerFields s s.cfg.width.val s.cfg.height.val j)[k]? = some (width, value))
    (ho : (((headerFields s s.cfg.width.val s.cfg.height.val j).take k).map Prod.fst).sum = o) (hin : o + width ≤ 32)
    (hv : value < 256 ^ width) : s.demuxed.dmxField (2048 * j + o) width = value := by
  refine State.dmxField_eq hv fun i hi => ?_
  have header := chunkHeader_length Config.hw s s.cfg.width.val s.cfg.height.val j
  rw [Nat.add_assoc, s.dmxByte_demuxed hj (by omega), List.getD_eq_getElem?_getD,
    List.getElem?_append_left (by omega), ← List.getD_eq_getElem?_getD, chunkHeader_eq_flatMap, ← ho]
  exact getD_flatMap_field hk hi

/-- Settles O34: the slots are runs of 2048 bytes, and the header's fields stand one after another in each. -/
theorem demuxSplitsIntoSevenChunks : Obligations.DemuxSplitsIntoSevenChunks := by
  intro s hf hw hh
  rw [exec_vdDemux hf]
  refine ⟨fun hl => ⟨_, vdDemux_of_fits hw hh hl, rfl, rfl, fun j hj => ?_⟩, fun hl => ?_⟩
  · exact ⟨fun i hi => s.dmxByte_demuxed_payload hj hi, s.dmxField_demuxed (o := 0) (k := 0) hj rfl rfl (by decide) (by decide),
      s.dmxField_demuxed (k := 1) hj rfl rfl (by decide) (by decide),
      s.dmxField_demuxed (k := 2) hj rfl rfl (by decide) (by omega),
      s.dmxField_demuxed (k := 3) hj rfl rfl (by decide) (by decide),
      fun hv => s.dmxField_demuxed (k := 4) hj rfl rfl (by decide) hv,
      s.dmxField_demuxed (k := 5) hj rfl rfl (by decide) (by omega),
      fun hv => s.dmxField_demuxed (k := 6) hj rfl rfl (by decide) hv,
      fun hv => s.dmxField_demuxed (k := 7) hj rfl rfl (by decide) hv,
      fun hv => s.dmxField_demuxed (k := 8) hj rfl rfl (by decide) hv,
      s.dmxField_demuxed (k := 9) hj rfl rfl (by decide) (by decide),
      fun hq => (s.dmxField_demuxed (k := 10) (o := 24) hj rfl rfl (by decide) (by rw [hq]; decide)).trans hq,
      s.dmxField_demuxed (k := 11) hj rfl rfl (by decide) (by decide),
      s.dmxField_demuxed (k := 12) hj rfl rfl (by decide) (by decide)⟩
  · have bytes : Config.hw.frameBytes = 14112 := rfl
    rw [vdDemux, bytes, if_pos hl]
    rfl

end Sys2Proof.Machine
end

section
/-! SUPPORT. The Sector Assembler, continued (spec/43_sector.md): the field tables, the parity generator and the checksum:
O37, O43, O42, O44, O41. -/

namespace Sys2Proof.Machine

/-! ## The field tables (R250, R251) -/

/-- The order of the generator divides 255 and none of its largest proper divisors; doubling keeps a byte a byte, and is 0 at
0 alone. -/
theorem gfDouble_computed : (∀ d, d < 256 → d ∣ 255 → d = 255 ∨ d ∣ 85 ∨ d ∣ 51 ∨ d ∣ 15) ∧
    (gfDouble Config.hw)^[255] 1 = 1 ∧ (gfDouble Config.hw)^[85] 1 ≠ 1 ∧
    (gfDouble Config.hw)^[51] 1 ≠ 1 ∧ (gfDouble Config.hw)^[15] 1 ≠ 1 ∧
    ∀ x, x < 256 → gfDouble Config.hw x < 256 ∧ (gfDouble Config.hw x = 0 → x = 0) := by decide +kernel

theorem gfDouble_lt {x : Nat} (hx : x < 256) : gfDouble Config.hw x < 256 := by
  obtain ⟨-, -, -, -, -, bytes⟩ := gfDouble_computed
  exact (bytes x hx).1

theorem gfDouble_closes : (gfDouble Config.hw)^[255] 1 = 1 := gfDouble_computed.2.1

/-- `i` doublings of a field element: its product with the generator's power `i`. -/
def gfDoubles (i x : Nat) : Nat := (gfDouble Config.hw)^[i] x

theorem gfDoubles_add (i j x : Nat) : gfDoubles (i + j) x = gfDoubles i (gfDoubles j x) := Function.iterate_add_apply _ i j x

theorem gfDoubles_succ (i x : Nat) : gfDoubles (i + 1) x = gfDouble Config.hw (gfDoubles i x) :=
  Function.iterate_succ_apply' _ i x

theorem gfDoubles_lt (i : Nat) {x : Nat} (hx : x < 256) : gfDoubles i x < 256 := by
  induction i with
  | zero => exact hx
  | succ i ih => exact gfDoubles_succ i x ▸ gfDouble_lt ih

theorem gfDoubles_pos (i : Nat) {x : Nat} (hx : x < 256) (h0 : x ≠ 0) : gfDoubles i x ≠ 0 := by
  obtain ⟨-, -, -, -, -, bytes⟩ := gfDouble_computed
  induction i with
  | zero => exact h0
  | succ i ih => exact gfDoubles_succ i x ▸ fun h => ih ((bytes _ (gfDoubles_lt i hx)).2 h)

/-- The generator has 255 powers. -/
theorem gfDouble_minimalPeriod : Function.minimalPeriod (gfDouble Config.hw) 1 = 255 := by
  obtain ⟨proper, closes, h85, h51, h15, -⟩ := gfDouble_computed
  have order : Function.minimalPeriod (gfDouble Config.hw) 1 ∣ 255 := Function.IsPeriodicPt.minimalPeriod_dvd closes
  have fixes : ∀ n, Function.minimalPeriod (gfDouble Config.hw) 1 ∣ n → (gfDouble Config.hw)^[n] 1 = 1 := fun n h =>
    (Function.isPeriodicPt_minimalPeriod _ _).trans_dvd h
  rcases proper _ (Nat.lt_succ_of_le (Nat.le_of_dvd (by decide) order)) order with h | h | h | h
  · exact h
  · exact absurd (fixes 85 h) h85
  · exact absurd (fixes 51 h) h51
  · exact absurd (fixes 15 h) h15

theorem gfWalk_eq_map (n x : Nat) : gfWalk Config.hw n x = (List.range n).map fun i => gfDoubles i x := by
  induction n generalizing x with
  | zero => rfl
  | succ n ih =>
    rw [List.range_succ_eq_map, List.map_cons, List.map_map, gfWalk, gfNext_hw, ih]
    rfl

theorem gfTables_exp : (gfTables Config.hw).exp = gfWalk Config.hw 255 1 := rfl

theorem gfTables_exp_getD {i : Nat} (hi : i < 255) : (gfTables Config.hw).exp.getD i 0 = gfDoubles i 1 := by
  rw [gfTables_exp, gfWalk_eq_map]
  exact getD_map_range_of_lt _ _ hi

theorem gfWalk_length : (gfWalk Config.hw 255 1).length = 255 := by rw [gfWalk_eq_map, List.length_map, List.length_range]

theorem gfWalk_nodup : (gfWalk Config.hw 255 1).Nodup := by
  rw [gfWalk_eq_map]
  refine List.Nodup.map_on (fun i hi j hj h => ?_) List.nodup_range
  refine Function.iterate_injOn_Iio_minimalPeriod ?_ ?_ h
  · exact Set.mem_Iio.2 (gfDouble_minimalPeriod ▸ List.mem_range.1 hi)
  · exact Set.mem_Iio.2 (gfDouble_minimalPeriod ▸ List.mem_range.1 hj)

theorem gfWalk_bytes : ∀ x ∈ gfWalk Config.hw 255 1, 1 ≤ x ∧ x ≤ 255 := by
  intro x hx
  rw [gfWalk_eq_map] at hx
  obtain ⟨i, -, rfl⟩ := List.mem_map.1 hx
  have small := gfDoubles_lt i (show 1 < 256 by decide)
  have pos := gfDoubles_pos i (show 1 < 256 by decide) Nat.one_ne_zero
  omega

/-- 255 different non-zero bytes are all of them. -/
theorem mem_gfWalk {x : Nat} (h1 : 1 ≤ x) (h2 : x ≤ 255) : x ∈ gfWalk Config.hw 255 1 := by
  have inside : (gfWalk Config.hw 255 1).toFinset ⊆ Finset.Icc 1 255 := fun y hy =>
    Finset.mem_Icc.2 (gfWalk_bytes y (List.mem_toFinset.1 hy))
  have size : (gfWalk Config.hw 255 1).toFinset.card = 255 := by
    rw [List.toFinset_card_of_nodup gfWalk_nodup, gfWalk_length]
  have all := Finset.eq_of_subset_of_card_le inside (by rw [size, Nat.card_Icc])
  exact List.mem_toFinset.1 (all ▸ Finset.mem_Icc.2 ⟨h1, h2⟩)

theorem gfTables_log_getD {x : Nat} (hx : x < 256) :
    (gfTables Config.hw).log.getD x 0 = (gfWalk Config.hw 255 1).idxOf x := getD_map_range_of_lt _ _ hx

theorem gfTables_log_lt {x : Nat} (h1 : 1 ≤ x) (h2 : x ≤ 255) : (gfTables Config.hw).log.getD x 0 < 255 := by
  have := List.idxOf_lt_length_of_mem (mem_gfWalk h1 h2)
  rw [gfTables_log_getD (by omega)]
  rwa [gfWalk_length] at this

theorem gfTables_exp_log {x : Nat} (h1 : 1 ≤ x) (h2 : x ≤ 255) :
    (gfTables Config.hw).exp.getD ((gfTables Config.hw).log.getD x 0) 0 = x := by
  have inside := List.idxOf_lt_length_of_mem (mem_gfWalk h1 h2)
  rw [gfTables_log_getD (by omega), gfTables_exp, List.getD_eq_getElem _ _ inside, List.getElem_idxOf]

theorem gfTables_log_exp {i : Nat} (hi : i < 255) :
    (gfTables Config.hw).log.getD ((gfTables Config.hw).exp.getD i 0) 0 = i := by
  have inside : i < (gfWalk Config.hw 255 1).length := by rw [gfWalk_length]; exact hi
  have byte := gfWalk_bytes _ (List.getElem_mem inside)
  rw [gfTables_exp, List.getD_eq_getElem _ _ inside, gfTables_log_getD (by omega), gfWalk_nodup.idxOf_getElem]

theorem gfDouble_hw (x : Nat) : gfDouble Config.hw x = if 2 * x < 256 then 2 * x else (2 * x) ^^^ 0x11D := by
  rw [gfDouble, hw_gfPoly]
  split_ifs <;> first | rfl | omega

/-- Settles O37: the walk is computed once; that its 255 bytes are different makes the log table its inverse. -/
theorem gfTablesWalkTheField : Obligations.GfTablesWalkTheField := by
  refine ⟨gfWalk_length, rfl, fun i hi => ?_, fun x h1 h2 => ⟨gfTables_log_lt h1 h2, gfTables_exp_log h1 h2⟩,
    fun i hi => gfTables_log_exp hi⟩
  rw [gfTables_exp_getD (by omega), gfTables_exp_getD (by omega), ← gfDouble_hw]
  exact gfDoubles_succ i 1

/-! ## Products -/

theorem gfDoubles_zero (i : Nat) : gfDoubles i 0 = 0 := Function.iterate_fixed rfl i

theorem gfDouble_eq_xor {x : Nat} (hx : x < 256) :
    gfDouble Config.hw x = (x <<< 1) ^^^ (if x.testBit 7 then 0x11D else 0) := by
  have top : x.testBit 7 = decide (0x100 ≤ 2 * x) := by
    rw [Nat.testBit_eq_decide_div_mod_eq]
    exact decide_eq_decide.2 (by omega)
  rw [gfDouble, hw_gfPoly, top, Nat.shiftLeft_eq, Nat.mul_comm x]
  by_cases h : 0x100 ≤ 2 * x
  · rw [if_pos h, if_pos (by simpa using h)]
  · rw [if_neg h, if_neg (by simpa using h)]
    exact (Nat.xor_zero _).symm

theorem xor_lt_256 {x y : Nat} (hx : x < 256) (hy : y < 256) : x ^^^ y < 256 := Nat.xor_lt_two_pow (n := 8) hx hy

theorem gfDouble_xor {x y : Nat} (hx : x < 256) (hy : y < 256) :
    gfDouble Config.hw (x ^^^ y) = gfDouble Config.hw x ^^^ gfDouble Config.hw y := by
  rw [gfDouble_eq_xor (xor_lt_256 hx hy), gfDouble_eq_xor hx, gfDouble_eq_xor hy, Nat.shiftLeft_xor_distrib,
    Nat.testBit_xor]
  cases x.testBit 7 <;> cases y.testBit 7 <;> simp [Nat.xor_assoc, Nat.xor_comm, Nat.xor_left_comm]

theorem gfDoubles_xor (i : Nat) {x y : Nat} (hx : x < 256) (hy : y < 256) :
    gfDoubles i (x ^^^ y) = gfDoubles i x ^^^ gfDoubles i y := by
  induction i with
  | zero => rfl
  | succ i ih =>
    rw [gfDoubles_succ, gfDoubles_succ, gfDoubles_succ, ih, gfDouble_xor (gfDoubles_lt i hx) (gfDoubles_lt i hy)]

/-- A byte is 0 or a power of the generator. -/
theorem byte_eq_power {v : Nat} (hv : v < 256) : v = 0 ∨ ∃ i, i < 255 ∧ v = gfDoubles i 1 := by
  rcases Nat.eq_zero_or_pos v with h0 | h1
  · exact .inl h0
  · have log := gfTables_log_lt h1 (by omega)
    exact .inr ⟨_, log, (gfTables_exp_log h1 (by omega)).symm.trans (gfTables_exp_getD log)⟩

theorem gfDoubles_mod (n : Nat) : gfDoubles (n % 255) 1 = gfDoubles n 1 := by
  have period : ∀ k, gfDoubles (255 * k) 1 = 1 := fun k => by
    rw [gfDoubles, Function.iterate_mul]
    exact Function.iterate_fixed gfDouble_closes k
  conv_rhs => rw [← Nat.mod_add_div n 255, gfDoubles_add, period]

theorem gmul_zero_left (c : Nat) : gmul (gfTables Config.hw) 0 c = 0 := if_pos (.inl rfl)

/-- The product with a power of the generator doubles as often (R251). -/
theorem gmul_power {i c : Nat} (hi : i < 255) (hc : c < 256) :
    gmul (gfTables Config.hw) (gfDoubles i 1) c = gfDoubles i c := by
  have log : ∀ j, j < 255 → (gfTables Config.hw).log.getD (gfDoubles j 1) 0 = j := fun j hj => by
    rw [← gfTables_exp_getD hj, gfTables_log_exp hj]
  rcases byte_eq_power hc with rfl | ⟨j, hj, rfl⟩
  · rw [gmul, if_pos (.inr rfl), gfDoubles_zero]
  · have one : 1 < 256 := by decide
    have nonzero : ¬ (gfDoubles i 1 = 0 ∨ gfDoubles j 1 = 0) := fun h =>
      h.elim (gfDoubles_pos i one Nat.one_ne_zero) (gfDoubles_pos j one Nat.one_ne_zero)
    rw [gmul, if_neg nonzero, log i hi, log j hj, gfTables_exp_getD (Nat.mod_lt _ (by decide)), gfDoubles_mod,
      gfDoubles_add]

section
variable {v x y : Nat} (hv : v < 256)
include hv

theorem gmul_lt (hx : x < 256) : gmul (gfTables Config.hw) v x < 256 := by
  rcases byte_eq_power hv with rfl | ⟨i, hi, rfl⟩
  · rw [gmul_zero_left]; decide
  · rw [gmul_power hi hx]; exact gfDoubles_lt i hx

theorem gmul_xor (hx : x < 256) (hy : y < 256) : gmul (gfTables Config.hw) v (x ^^^ y) =
    gmul (gfTables Config.hw) v x ^^^ gmul (gfTables Config.hw) v y := by
  rcases byte_eq_power hv with rfl | ⟨i, hi, rfl⟩
  · simp only [gmul_zero_left, Nat.xor_zero]
  · rw [gmul_power hi hx, gmul_power hi hy, gmul_power hi (xor_lt_256 hx hy), gfDoubles_xor i hx hy]

theorem gmul_one : gmul (gfTables Config.hw) v 1 = v := by
  rcases byte_eq_power hv with rfl | ⟨i, hi, rfl⟩
  · exact gmul_zero_left 1
  · exact gmul_power hi (by decide)

theorem gmul_two : gmul (gfTables Config.hw) v 2 = gfDouble Config.hw v := by
  rcases byte_eq_power hv with rfl | ⟨i, hi, rfl⟩
  · exact gmul_zero_left 2
  · rw [gmul_power hi (by decide), ← gfDoubles_succ]
    exact (gfDoubles_add i 1 1).symm

theorem gmul_double (hx : x < 256) : gmul (gfTables Config.hw) v (gfDouble Config.hw x) =
    gfDouble Config.hw (gmul (gfTables Config.hw) v x) := by
  rcases byte_eq_power hv with rfl | ⟨i, hi, rfl⟩
  · rw [gmul_zero_left, gmul_zero_left]; rfl
  · rw [gmul_power hi hx, gmul_power hi (gfDouble_lt hx), ← gfDoubles_succ]
    exact (gfDoubles_add i 1 x).symm

end

theorem gmul_comm (t : GfTables) (a b : Nat) : gmul t a b = gmul t b a := by
  rw [gmul, gmul, Nat.add_comm]
  exact if_congr or_comm rfl rfl

theorem gfDoubles_period {x : Nat} (hx : x < 256) : gfDoubles 255 x = x := by
  rcases byte_eq_power hx with rfl | ⟨i, -, rfl⟩
  · exact gfDoubles_zero 255
  · rw [← gfDoubles_add, Nat.add_comm, gfDoubles_add]
    exact congrArg (gfDoubles i) gfDouble_closes

theorem gmul_cancel {v x y : Nat} (hv : v < 256) (h0 : v ≠ 0) (hx : x < 256) (hy : y < 256)
    (h : gmul (gfTables Config.hw) v x = gmul (gfTables Config.hw) v y) : x = y := by
  obtain ⟨i, hi, rfl⟩ := (byte_eq_power hv).resolve_left h0
  rw [gmul_power hi hx, gmul_power hi hy] at h
  have back := congrArg (gfDoubles (255 - i)) h
  rwa [← gfDoubles_add, ← gfDoubles_add, Nat.sub_add_cancel (Nat.le_of_lt hi), gfDoubles_period hx,
    gfDoubles_period hy] at back

/-- Division undoes multiplication (R251). -/
theorem gmul_gdiv {a b : Nat} (ha : a < 256) (hb : b < 256) (h0 : b ≠ 0) :
    gdiv (gfTables Config.hw) a b < 256 ∧ gmul (gfTables Config.hw) b (gdiv (gfTables Config.hw) a b) = a := by
  obtain ⟨j, hj, rfl⟩ := (byte_eq_power hb).resolve_left h0
  have one : 1 < 256 := by decide
  have log : ∀ j, j < 255 → (gfTables Config.hw).log.getD (gfDoubles j 1) 0 = j := fun j hj => by
    rw [← gfTables_exp_getD hj, gfTables_log_exp hj]
  rcases byte_eq_power ha with rfl | ⟨i, hi, rfl⟩
  · exact ⟨by rw [gdiv, if_pos rfl]; decide, by rw [gdiv, if_pos rfl, gmul_comm, gmul_zero_left]⟩
  · have quotient : gdiv (gfTables Config.hw) (gfDoubles i 1) (gfDoubles j 1) = gfDoubles (i + 255 - j) 1 := by
      rw [gdiv, if_neg (gfDoubles_pos i one Nat.one_ne_zero), log i hi, log j hj,
        gfTables_exp_getD (Nat.mod_lt _ (by decide)), gfDoubles_mod]
    rw [quotient, gmul_power hj (gfDoubles_lt _ one), ← gfDoubles_add, Nat.add_sub_cancel' (by omega),
      gfDoubles_add, gfDoubles_period one]
    exact ⟨gfDoubles_lt _ one, rfl⟩

/-! ## The weights of a codeword (R252, R255) -/

/-- Both weights of each place are bytes, and a symbol 1 with its two parity symbols meets both checks. -/
theorem gfWeights (w : Nat) (hw : w < 45) : gfCx (gfTables Config.hw) w < 256 ∧ gfCy (gfTables Config.hw) w < 256 ∧
    gfCy (gfTables Config.hw) w ^^^ gfCx (gfTables Config.hw) w = 1 ∧
    gfCy (gfTables Config.hw) w ^^^ gfDouble Config.hw (gfCx (gfTables Config.hw) w) =
      (gfTables Config.hw).exp.getD w 0 := by
  have three : 3 < 256 ∧ 3 ≠ 0 := by decide
  have power : (gfTables Config.hw).exp.getD w 0 < 256 :=
    gfTables_exp_getD (show w < 255 by omega) ▸ gfDoubles_lt w (by decide)
  generalize he : (gfTables Config.hw).exp.getD w 0 = e at power
  obtain ⟨hx, xThree⟩ := gmul_gdiv (xor_lt_256 (by decide : 1 < 256) power) three.1 three.2
  obtain ⟨hy, yThree⟩ := gmul_gdiv (xor_lt_256 (by decide : 2 < 256) power) three.1 three.2
  rw [gfCx, gfCy, he]
  refine ⟨hx, hy, gmul_cancel three.1 three.2 (xor_lt_256 hy hx) (by decide) ?_,
    gmul_cancel three.1 three.2 (xor_lt_256 hy (gfDouble_lt hx)) power ?_⟩
  · have sum : 2 ^^^ e ^^^ (1 ^^^ e) = 3 := by
      rw [Nat.xor_comm 1 e, ← Nat.xor_assoc, Nat.xor_assoc 2 e e, Nat.xor_self]
      rfl
    rw [gmul_xor three.1 hy hx, xThree, yThree, gmul_one three.1, sum]
  · have product : gmul (gfTables Config.hw) 3 e = gfDouble Config.hw e ^^^ e := by
      rw [gmul_comm, show (3 : Nat) = 2 ^^^ 1 from rfl, gmul_xor power (by decide) (by decide), gmul_two power,
        gmul_one power]
    have one : gfDouble Config.hw 1 = 2 := rfl
    rw [gmul_xor three.1 hy (gfDouble_lt hx), gmul_double three.1 hx, xThree, yThree,
      gfDouble_xor (by decide) power, product, one, Nat.xor_comm 2 e, Nat.xor_assoc, ← Nat.xor_assoc 2 2, Nat.xor_self,
      Nat.zero_xor, Nat.xor_comm]

/-! ## Parity pairs (R256) -/

theorem xorSum_succ (n : Nat) (f : Nat → Nat) : xorSum (n + 1) f = xorSum n f ^^^ f n := by
  rw [xorSum, List.range_succ, List.foldl_append]
  rfl

theorem xorSum_lt {n : Nat} {f : Nat → Nat} (hf : ∀ i, i < n → f i < 256) : xorSum n f < 256 := by
  induction n with
  | zero => exact (by decide : (0 : Nat) < 256)
  | succ n ih => exact xorSum_succ n f ▸ xor_lt_256 (ih fun i hi => hf i (by omega)) (hf n (by omega))

theorem gfDouble_xorSum {n : Nat} {f : Nat → Nat} (hf : ∀ i, i < n → f i < 256) :
    gfDouble Config.hw (xorSum n f) = xorSum n fun i => gfDouble Config.hw (f i) := by
  induction n with
  | zero => rfl
  | succ n ih =>
    rw [xorSum_succ, xorSum_succ, gfDouble_xor (xorSum_lt fun i hi => hf i (by omega)) (hf n (by omega)),
      ih fun i hi => hf i (by omega)]

theorem xorSum_cancel {n : Nat} {f g h : Nat → Nat} (hz : ∀ i, i < n → f i ^^^ g i ^^^ h i = 0) :
    xorSum n f ^^^ xorSum n g ^^^ xorSum n h = 0 := by
  induction n with
  | zero => exact (by decide : (0 : Nat) ^^^ 0 ^^^ 0 = 0)
  | succ n ih =>
    have pull : ∀ a b c d e j : Nat, (a ^^^ b) ^^^ (c ^^^ d) ^^^ (e ^^^ j) = (a ^^^ c ^^^ e) ^^^ (b ^^^ d ^^^ j) := by
      intro a b c d e j
      ac_rfl
    rw [xorSum_succ, xorSum_succ, xorSum_succ, pull, ih fun i hi => hz i (by omega), hz n (by omega),
      Nat.xor_self]

/-- The parity symbols of a codeword are sums of weighted data symbols. -/
theorem parityPair_toNat (read : Nat → Byte) (row addr : Nat → Nat) {n : Nat} (hrow : ∀ i, i < n → row i < 44) :
    (parityPair (gfTables Config.hw) read ((List.range n).map fun i => (row i, addr i))).1.toNat =
        (xorSum n fun i => gmul (gfTables Config.hw) (read (addr i)).toNat (gfCx (gfTables Config.hw) (44 - row i))) ∧
      (parityPair (gfTables Config.hw) read ((List.range n).map fun i => (row i, addr i))).2.toNat =
        xorSum n fun i => gmul (gfTables Config.hw) (read (addr i)).toNat (gfCy (gfTables Config.hw) (44 - row i)) := by
  induction n with
  | zero => exact ⟨rfl, rfl⟩
  | succ n ih =>
    obtain ⟨hx, hy, -, -⟩ := gfWeights (44 - row n) (by omega)
    have small : ∀ c, c < 256 → gmul (gfTables Config.hw) (read (addr n)).toNat c % 2 ^ 8 =
        gmul (gfTables Config.hw) (read (addr n)).toNat c := fun c hc => Nat.mod_eq_of_lt (gmul_lt (BitVec.isLt _) hc)
    obtain ⟨ih1, ih2⟩ := ih fun i hi => hrow i (by omega)
    rw [parityPair] at ih1 ih2
    rw [parityPair, List.range_succ, List.map_append, List.foldl_append, xorSum_succ, xorSum_succ, ← ih1, ← ih2]
    simp only [List.map_cons, List.map_nil, List.foldl_cons, List.foldl_nil, gfProd, BitVec.toNat_xor, BitVec.toNat_ofNat,
      small _ hx, small _ hy, and_self]

/-- One data symbol with its part of the parity symbols meets both checks. -/
theorem symbol_checks {v w : Nat} (hv : v < 256) (hw : w < 45) :
    gmul (gfTables Config.hw) v (gfCy (gfTables Config.hw) w) ^^^ gmul (gfTables Config.hw) v (gfCx (gfTables Config.hw) w)
        ^^^ v = 0 ∧
      gmul (gfTables Config.hw) v (gfCy (gfTables Config.hw) w) ^^^
        gfDouble Config.hw (gmul (gfTables Config.hw) v (gfCx (gfTables Config.hw) w)) ^^^
        gmul (gfTables Config.hw) v ((gfTables Config.hw).exp.getD w 0) = 0 := by
  obtain ⟨hx, hy, sum, twice⟩ := gfWeights w hw
  constructor
  · rw [← gmul_xor hv hy hx, sum, gmul_one hv, Nat.xor_self]
  · rw [← gmul_double hv hx, ← gmul_xor hv hy (gfDouble_lt hx), twice, Nat.xor_self]

/-- A codeword whose parity symbols the model computes meets both checks of R255. -/
theorem codewordChecks_parityPair (read : Nat → Byte) (addr : Nat → Nat) {n : Nat} (hn : n ≤ 43) :
    let pair := parityPair (gfTables Config.hw) read ((List.range n).map fun i => (43 - n + i, addr i))
    codewordChecks n (fun i => (read (addr i)).toNat) pair.1.toNat pair.2.toNat := by
  obtain ⟨hx, hy⟩ := parityPair_toNat read (fun i => 43 - n + i) addr (n := n) (by omega)
  have weight : ∀ i, i < n → 44 - (43 - n + i) = n + 1 - i := by omega
  have bytes : ∀ i, i < n → gmul (gfTables Config.hw) (read (addr i)).toNat
      (gfCx (gfTables Config.hw) (44 - (43 - n + i))) < 256 := fun i hi =>
    gmul_lt (BitVec.isLt _) (gfWeights _ (by omega)).1
  have sum : xorSum n (fun i => gmul (gfTables Config.hw) (read (addr i)).toNat
      (gfCx (gfTables Config.hw) (44 - (43 - n + i)))) < 256 := xorSum_lt bytes
  intro pair
  rw [hx, hy]
  refine ⟨xorSum_cancel fun i hi => (symbol_checks (BitVec.isLt _) (by omega)).1, ?_⟩
  rw [gmul_two sum, gfDouble_xorSum bytes]
  refine xorSum_cancel fun i hi => ?_
  rw [← weight i hi]
  exact (symbol_checks (BitVec.isLt _) (by omega)).2

/-! ## The parity bytes of a sector (R254, R256) -/

section
variable (read : Nat → Byte) (symbols : Nat → Nat → List (Nat × Nat)) {n c l : Nat} (hc : c < n) (hl : l < 2)
include hc hl

theorem parityBytes_x : (parityBytes (gfTables Config.hw) read symbols n).getD (2 * c + l) 0 =
    (parityPair (gfTables Config.hw) read (symbols c l)).1 := by
  have place : (2 * c + l) / 2 = c ∧ (2 * c + l) % 2 = l := by omega
  rw [parityBytes, List.getD_eq_getElem?_getD, List.getElem?_append_left (by simp; omega), List.map_map,
    ← List.getD_eq_getElem?_getD, getD_map_range_of_lt _ _ (by omega), Function.comp, place.1, place.2]

theorem parityBytes_y : (parityBytes (gfTables Config.hw) read symbols n).getD (2 * n + (2 * c + l)) 0 =
    (parityPair (gfTables Config.hw) read (symbols c l)).2 := by
  have place : (2 * c + l) / 2 = c ∧ (2 * c + l) % 2 = l := by omega
  rw [parityBytes, List.getD_eq_getElem?_getD, List.getElem?_append_right (by simp), List.map_map,
    ← List.getD_eq_getElem?_getD, List.length_map, List.length_map, List.length_range, Nat.add_sub_cancel_left,
    getD_map_range_of_lt _ _ (by omega), Function.comp, place.1, place.2]

end

theorem parityBytes_length (t : GfTables) (read : Nat → Byte) (symbols : Nat → Nat → List (Nat × Nat)) (n : Nat) :
    (parityBytes t read symbols n).length = 4 * n := by
  simp only [parityBytes, List.length_append, List.length_map, List.length_range]
  omega

/-- A sector with the parity the model computes for it. -/
def paritySector (read : Nat → Byte) (a : Nat) : Byte := overlay read 0x81C (pqBytes Config.hw read) a

section
variable (read : Nat → Byte)

theorem paritySector_outside {a : Nat} (h : a < 0x81C ∨ 0x930 ≤ a) : paritySector read a = read a := by
  rw [paritySector, overlay, pqBytes_length, if_neg (by omega)]

theorem paritySector_p {i : Nat} (hi : i < 172) : paritySector read (0x81C + i) =
    (pBytes (gfTables Config.hw) (zeroedHeader Config.hw read)).getD i 0 := by
  rw [paritySector, overlay, pqBytes_length, if_pos (by omega), Nat.add_sub_cancel_left, pqBytes,
    List.getD_eq_getElem?_getD, List.getElem?_append_left (by rw [pBytes, parityBytes_length]; exact hi),
    ← List.getD_eq_getElem?_getD]

theorem paritySector_q {i : Nat} (hi : i < 104) : paritySector read (0x8C8 + i) =
    (qBytes (gfTables Config.hw) (overlay (zeroedHeader Config.hw read) 0x81C
      (pBytes (gfTables Config.hw) (zeroedHeader Config.hw read)))).getD i 0 := by
  have front := parityBytes_length (gfTables Config.hw) (zeroedHeader Config.hw read) pSymbols 43
  have place : 0x8C8 + i - 0x81C - 4 * 43 = i := by omega
  rw [paritySector, overlay, pqBytes_length, if_pos (by omega), pqBytes, List.getD_eq_getElem?_getD,
    List.getElem?_append_right (by rw [pBytes, front]; omega), ← List.getD_eq_getElem?_getD, pBytes, front, place]

theorem zeroedAt_paritySector_of_lt {a : Nat} (h : a < 0x81C) :
    zeroedAt (paritySector read) a = (zeroedHeader Config.hw read a).toNat := by
  rw [zeroedAt, zeroedHeader, hw_pqZeroMode, paritySector_outside read (.inl h)]
  by_cases ts : 0x00C ≤ a ∧ a ≤ 0x00E
  · rw [if_pos ts, if_pos (by omega)]
    rfl
  by_cases mode : a = 0x00F
  · have zero : 0x00C ≤ a ∧ a ≤ 0x00F := by omega
    rw [if_pos zero, if_neg ts, if_pos ⟨mode, rfl⟩]
    rfl
  · have body : ¬ (0x00C ≤ a ∧ a ≤ 0x00F) := by omega
    have kept : ¬ (a = 0x00F ∧ true = true) := fun h => mode h.1
    rw [if_neg body, if_neg ts, if_neg kept]

/-- The bytes a Q diagonal covers: the zeroed sector with the P bytes in place (R256). -/
theorem zeroedAt_paritySector_covered {a : Nat} (h : a < 0x8C8) : zeroedAt (paritySector read) a =
    (overlay (zeroedHeader Config.hw read) 0x81C (pBytes (gfTables Config.hw) (zeroedHeader Config.hw read)) a).toNat := by
  have front := parityBytes_length (gfTables Config.hw) (zeroedHeader Config.hw read) pSymbols 43
  rw [overlay, pBytes, front]
  rcases Nat.lt_or_ge a 0x81C with ha | ha
  · rw [if_neg (by omega), zeroedAt_paritySector_of_lt read ha]
  · obtain ⟨i, rfl⟩ := Nat.exists_eq_add_of_le ha
    rw [if_pos (by omega), zeroedAt, if_neg (by omega), paritySector_p read (by omega), Nat.add_sub_cancel_left, pBytes]

theorem zeroedAt_parity {a : Nat} (h : 0x010 ≤ a) : zeroedAt (paritySector read) a = (paritySector read a).toNat :=
  if_neg (by omega)

theorem codewordChecks_congr {n : Nat} {d e : Nat → Nat} {x y : Nat} (hd : ∀ i, i < n → d i = e i)
    (h : codewordChecks n e x y) : codewordChecks n d x y := by
  have sum : ∀ f : Nat → Nat → Nat, (xorSum n fun i => f (d i) i) = xorSum n fun i => f (e i) i := fun f =>
    List.foldl_ext _ _ _ fun z i hi => congrArg (fun v => z ^^^ f v i) (hd i (List.mem_range.1 hi))
  obtain ⟨first, second⟩ := h
  refine ⟨Eq.trans ?_ first, Eq.trans ?_ second⟩
  · exact congrArg (y ^^^ x ^^^ ·) (sum fun v _ => v)
  · exact congrArg (y ^^^ gmul (gfTables Config.hw) x 2 ^^^ ·)
      (sum fun v i => gmul (gfTables Config.hw) v ((gfTables Config.hw).exp.getD (n + 1 - i) 0))

/-- The P column `c` of lane `l` (R254). -/
theorem paritySector_column {c l : Nat} (hc : c < 43) (hl : l < 2) :
    codewordChecks 24 (fun r => zeroedAt (paritySector read) (0x00C + 2 * (43 * r + c) + l))
      (zeroedAt (paritySector read) (0x81C + 2 * c + l)) (zeroedAt (paritySector read) (0x81C + 86 + 2 * c + l)) := by
  have x : zeroedAt (paritySector read) (0x81C + 2 * c + l) =
      (parityPair (gfTables Config.hw) (zeroedHeader Config.hw read) (pSymbols c l)).1.toNat := by
    rw [zeroedAt_parity _ (by omega), Nat.add_assoc, paritySector_p _ (by omega), pBytes, parityBytes_x _ _ hc hl]
  have y : zeroedAt (paritySector read) (0x81C + 86 + 2 * c + l) =
      (parityPair (gfTables Config.hw) (zeroedHeader Config.hw read) (pSymbols c l)).2.toNat := by
    rw [zeroedAt_parity _ (by omega), Nat.add_assoc, Nat.add_assoc, paritySector_p _ (by omega), pBytes]
    exact congrArg BitVec.toNat (parityBytes_y _ _ hc hl)
  rw [x, y]
  exact codewordChecks_congr (fun r hr => zeroedAt_paritySector_of_lt read (by omega))
    (codewordChecks_parityPair _ (fun r => 0x00C + 2 * (43 * r + c) + l) (by decide))

/-- The Q diagonal `d` of lane `l` (R254). -/
theorem paritySector_diagonal {d l : Nat} (hd : d < 26) (hl : l < 2) :
    codewordChecks 43 (fun k => zeroedAt (paritySector read) (0x00C + 2 * ((43 * d + 44 * k) % 1118) + l))
      (zeroedAt (paritySector read) (0x8C8 + 2 * d + l)) (zeroedAt (paritySector read) (0x8C8 + 52 + 2 * d + l)) := by
  have x : zeroedAt (paritySector read) (0x8C8 + 2 * d + l) = (parityPair (gfTables Config.hw)
      (overlay (zeroedHeader Config.hw read) 0x81C (pBytes (gfTables Config.hw) (zeroedHeader Config.hw read)))
      (qSymbols d l)).1.toNat := by
    rw [zeroedAt_parity _ (by omega), Nat.add_assoc, paritySector_q _ (by omega), qBytes, parityBytes_x _ _ hd hl]
  have y : zeroedAt (paritySector read) (0x8C8 + 52 + 2 * d + l) = (parityPair (gfTables Config.hw)
      (overlay (zeroedHeader Config.hw read) 0x81C (pBytes (gfTables Config.hw) (zeroedHeader Config.hw read)))
      (qSymbols d l)).2.toNat := by
    rw [zeroedAt_parity _ (by omega), Nat.add_assoc, Nat.add_assoc, paritySector_q _ (by omega), qBytes]
    exact congrArg BitVec.toNat (parityBytes_y _ _ hd hl)
  have rows : qSymbols d l = (List.range 43).map fun k => (43 - 43 + k, 0x00C + 2 * ((43 * d + 44 * k) % 1118) + l) :=
    List.map_congr_left fun k _ => by rw [Nat.sub_self, Nat.zero_add]
  rw [x, y, rows]
  exact codewordChecks_congr (fun k hk => zeroedAt_paritySector_covered read (by omega))
    (codewordChecks_parityPair _ (fun k => 0x00C + 2 * ((43 * d + 44 * k) % 1118) + l) (by decide))

/-- Every codeword of a sector with its parity meets both checks (R257 (e)). -/
theorem parityHolds_paritySector : parityHolds (zeroedAt (paritySector read)) :=
  ⟨fun _ _ hc hl => paritySector_column read hc hl, fun _ _ hd hl => paritySector_diagonal read hd hl⟩

end

/-! ### SC.PQ -/

theorem scPq_of_built (c : Config) {s : State} (hb : s.tbuilt = true) (hsec : s.sec.cells ≠ []) :
    scPq c s = .next (s.withParity c) := by
  rw [scPq, if_neg (by simp [hb]), needSec_written hsec]
  rfl

theorem State.secByte_withParity (s : State) (a : Nat) :
    (s.withParity Config.hw).secByte a = paritySector s.secByte a := by
  show ((s.putSec 0x81C (pqBytes Config.hw s.secByte)).putSec 0x00C (bytesOf s.secByte 0x00C 4)).secByte a = _
  rw [State.secByte_putSec, State.secByte_putSec, bytesOf_length]
  by_cases h : 0x00C ≤ a ∧ a < 0x00C + 4
  · rw [if_pos h, bytesOf_getD _ _ (by omega), Nat.add_sub_cancel' h.1, paritySector_outside _ (by omega)]
  · rw [if_neg h]
    rfl

/-- Settles O43: the sector that SC.PQ leaves is the old one with its parity. -/
theorem parityChecksHold : Obligations.ParityChecksHold := by
  intro s hf hb hsec
  rw [exec_scPq hf]
  refine ⟨_, scPq_of_built Config.hw hb hsec, ?_⟩
  have sector : (s.withParity Config.hw).secByte = paritySector s.secByte := funext s.secByte_withParity
  show parityHolds (zeroedAt (s.withParity Config.hw).secByte)
  rw [sector]
  exact parityHolds_paritySector s.secByte

/-- Settles O42: the header bytes are restored, so only the parity field is another. -/
theorem parityLeavesTheSectorBody : Obligations.ParityLeavesTheSectorBody := by
  intro s hf hb hsec
  rw [exec_scPq hf]
  refine ⟨_, scPq_of_built Config.hw hb hsec, rfl, fun a ha => ?_, fun a h1 h2 => ?_, rfl⟩
  · rw [State.secByte_withParity, paritySector_outside _ ha]
  · have inside : a - 0x81C < (pqBytes Config.hw s.secByte).length := by rw [pqBytes_length]; omega
    have header : 0x00C + (bytesOf s.secByte 0x00C 4).length ≤ a := by rw [bytesOf_length]; omega
    refine (congrArg Option.isSome (State.read_putSec_outside _ (.inr header))).trans ?_
    rw [State.read_putSec_inside _ h1 (by omega), List.getElem?_eq_getElem inside]
    rfl

/-! ### What the parity depends on (R257, R258) -/

theorem parityPair_congr {t : GfTables} {f g : Nat → Byte} {l : List (Nat × Nat)} (h : ∀ q ∈ l, f q.2 = g q.2) :
    parityPair t f l = parityPair t g l :=
  List.foldl_ext _ _ _ fun p q hq => by rw [h q hq]

theorem parityBytes_congr {t : GfTables} {f g : Nat → Byte} {symbols : Nat → Nat → List (Nat × Nat)} {n : Nat}
    (h : ∀ c l, c < n → l < 2 → ∀ q ∈ symbols c l, f q.2 = g q.2) :
    parityBytes t f symbols n = parityBytes t g symbols n := by
  have pairs : (List.range (2 * n)).map (fun i => parityPair t f (symbols (i / 2) (i % 2))) =
      (List.range (2 * n)).map fun i => parityPair t g (symbols (i / 2) (i % 2)) :=
    List.map_congr_left fun i hi => by
      have hi := List.mem_range.1 hi
      exact parityPair_congr (h _ _ (by omega) (Nat.mod_lt _ (by decide)))
  rw [parityBytes, parityBytes, pairs]

theorem pSymbols_range {c l : Nat} (hc : c < 43) (hl : l < 2) : ∀ q ∈ pSymbols c l, 0x00C ≤ q.2 ∧ q.2 < 0x81C := by
  intro q hq
  obtain ⟨r, hr, rfl⟩ := List.mem_map.1 hq
  have := List.mem_range.1 hr
  exact ⟨by simp only; omega, by simp only; omega⟩

theorem qSymbols_range {d l : Nat} (hl : l < 2) : ∀ q ∈ qSymbols d l, 0x00C ≤ q.2 ∧ q.2 < 0x8C8 := by
  intro q hq
  obtain ⟨k, -, rfl⟩ := List.mem_map.1 hq
  exact ⟨by simp only; omega, by simp only; omega⟩

/-- The header drops out of the zeroed sector under PQ_ZERO_MODE = true (R258, log 11). -/
theorem zeroedHeader_congr {f g : Nat → Byte} (h : ∀ a, 0x010 ≤ a → a < 0x81C → f a = g a) {a : Nat} (h1 : 0x00C ≤ a)
    (h2 : a < 0x81C) : zeroedHeader Config.hw f a = zeroedHeader Config.hw g a := by
  rw [zeroedHeader, zeroedHeader, hw_pqZeroMode]
  by_cases ts : 0x00C ≤ a ∧ a ≤ 0x00E
  · rw [if_pos ts, if_pos ts]
  by_cases mode : a = 0x00F
  · rw [if_neg ts, if_neg ts, if_pos ⟨mode, rfl⟩, if_pos ⟨mode, rfl⟩]
  · have kept : ¬ (a = 0x00F ∧ true = true) := fun h => mode h.1
    rw [if_neg ts, if_neg ts, if_neg kept, if_neg kept, h a (by omega) h2]

theorem pqBytes_congr {f g : Nat → Byte} (h : ∀ a, 0x010 ≤ a → a < 0x81C → f a = g a) :
    pqBytes Config.hw f = pqBytes Config.hw g := by
  have p : pBytes (gfTables Config.hw) (zeroedHeader Config.hw f) = pBytes (gfTables Config.hw) (zeroedHeader Config.hw g) :=
    parityBytes_congr fun c l hc hl q hq => by
      obtain ⟨h1, h2⟩ := pSymbols_range hc hl q hq
      exact zeroedHeader_congr h h1 h2
  have front := parityBytes_length (gfTables Config.hw) (zeroedHeader Config.hw g) pSymbols 43
  rw [pqBytes, pqBytes, p, qBytes, qBytes]
  refine congrArg (_ ++ ·) (parityBytes_congr fun d l _ hl q hq => ?_)
  obtain ⟨h1, h2⟩ := qSymbols_range hl q hq
  rw [overlay, overlay, pBytes, front]
  by_cases body : q.2 < 0x81C
  · rw [if_neg (by omega), if_neg (by omega), zeroedHeader_congr h h1 body]
  · rw [if_pos (by omega), if_pos (by omega)]

/-- Settles O44: every symbol of a codeword is a byte of the body, a zeroed byte or a parity byte. -/
theorem parityIgnoresTheTimestamp : Obligations.ParityIgnoresTheTimestamp := by
  intro s u hfs hfu hbs hbu hss hsu h
  rw [exec_scPq hfs, exec_scPq hfu]
  refine ⟨_, _, scPq_of_built Config.hw hbs hss, scPq_of_built Config.hw hbu hsu, fun a h1 h2 => ?_⟩
  rw [State.secByte_withParity, State.secByte_withParity, paritySector, paritySector, overlay, overlay, pqBytes_length,
    pqBytes_length, pqBytes_congr h, if_pos (by omega), if_pos (by omega)]

/-! ## The checksum (R247 to R249) -/

theorem edcBit_hw (e : BitVec 32) :
    edcBit Config.hw e = (e >>> 1) ^^^ (if e.getLsbD 0 then 0xD8018001#32 else 0#32) := by
  have odd : (e &&& 1 = 1) ↔ e.getLsbD 0 = true := by
    constructor
    · intro h
      simpa using congrArg (fun x : BitVec 32 => x.getLsbD 0) h
    · intro h
      refine BitVec.eq_of_getLsbD_eq fun i _ => ?_
      rcases Nat.eq_zero_or_pos i with rfl | hi
      · simp [h]
      · simp [show i ≠ 0 by omega]
  rw [edcBit, hw_edcReflected, if_pos rfl, hw_edcPoly]
  simp only [odd]
  rfl

theorem edcBit_xor (e f : BitVec 32) :
    edcBit Config.hw (e ^^^ f) = edcBit Config.hw e ^^^ edcBit Config.hw f := by
  have carry : ∀ a b : Bool, (if (a ^^ b) = true then 0xD8018001#32 else 0#32) =
      (if a = true then 0xD8018001#32 else 0#32) ^^^ (if b = true then 0xD8018001#32 else 0#32) := by decide
  rw [edcBit_hw, edcBit_hw, edcBit_hw, BitVec.ushiftRight_xor_distrib, BitVec.getLsbD_xor, carry]
  ac_rfl

theorem edcBit_eq_zero {e : BitVec 32} (h : edcBit Config.hw e = 0) : e = 0 := by
  rw [edcBit_hw] at h
  cases low : e.getLsbD 0 with
  | true =>
    rw [low] at h
    have top := congrArg (fun x : BitVec 32 => x.getLsbD 31) h
    simp at top
  | false =>
    rw [low] at h
    have shifted : e >>> 1 = 0 := by simpa using h
    refine BitVec.eq_of_getLsbD_eq fun i hi => ?_
    cases i with
    | zero => rw [low]; rfl
    | succ i =>
      have bit := congrArg (fun x : BitVec 32 => x.getLsbD i) shifted
      simpa [Nat.add_comm] using bit

/-- The table entry of R247: eight steps. -/
def edcSteps (e : BitVec 32) : BitVec 32 := (edcBit Config.hw)^[8] e

theorem edcLut_hw (i : BitVec 32) : edcLut Config.hw i = edcSteps i := by
  rw [edcLut, hw_edcReflected, if_pos rfl, edcSteps]

theorem edcSteps_eq (i : BitVec 32) : edcSteps i =
    let bit := fun e : BitVec 32 => (e >>> 1) ^^^ (if e.getLsbD 0 then 0xD8018001#32 else 0#32)
    bit (bit (bit (bit (bit (bit (bit (bit i))))))) := by
  simp only [edcSteps, Function.iterate_succ_apply', Function.iterate_zero_apply, edcBit_hw]

theorem edcByte_hw (e : BitVec 32) (b : Byte) :
    edcByte Config.hw e b = (e >>> 8) ^^^ edcSteps ((e ^^^ b.setWidth 32) &&& 0xFF#32) := by
  rw [edcByte, hw_edcReflected, if_pos rfl, edcLut_hw]
  rfl

theorem edcSteps_xor (e f : BitVec 32) : edcSteps (e ^^^ f) = edcSteps e ^^^ edcSteps f :=
  Function.Semiconj₂.iterate (f := edcBit Config.hw) (op := fun x y => x ^^^ y) edcBit_xor 8 e f

theorem edcSteps_eq_zero {e : BitVec 32} (h : edcSteps e = 0) : e = 0 := by
  have steps : ∀ n e, (edcBit Config.hw)^[n] e = 0 → e = 0 := fun n => by
    induction n with
    | zero => exact fun e h => h
    | succ n ih => exact fun e h => edcBit_eq_zero (ih _ h)
  exact steps 8 e h

/-- Over bits that are 0 the steps only shift. -/
theorem edcBit_iterate_of_zero (n : Nat) {e : BitVec 32} (h : ∀ k, k < n → e.getLsbD k = false) :
    (edcBit Config.hw)^[n] e = e >>> n := by
  induction n with
  | zero => rfl
  | succ n ih =>
    have low : (e >>> n).getLsbD 0 = false := by
      rw [BitVec.getLsbD_ushiftRight]
      exact h n (by omega)
    rw [Function.iterate_succ_apply', ih fun k hk => h k (by omega), edcBit_hw, low, ← BitVec.shiftRight_add]
    exact BitVec.xor_zero

theorem and_xor_and_not (x m : BitVec 32) : (x &&& m) ^^^ (x &&& ~~~m) = x := by
  refine BitVec.eq_of_getLsbD_eq fun i hi => ?_
  simp only [BitVec.getLsbD_xor, BitVec.getLsbD_and, BitVec.getLsbD_not, hi, decide_true, Bool.true_and]
  cases x.getLsbD i <;> cases m.getLsbD i <;> rfl

/-- The bits of the mask of R248. -/
theorem getLsbD_mask (i : Nat) : (0xFF#32).getLsbD i = decide (i < 8) := by
  rw [BitVec.getLsbD_ofNat]
  rcases Nat.lt_or_ge i 8 with h | h
  · interval_cases i <;> rfl
  · have wide : (255 : Nat) < 2 ^ i := lt_of_lt_of_le (by decide) (Nat.pow_le_pow_right (by decide) h)
    rw [Nat.testBit_lt_two_pow wide, Bool.and_false]
    exact (decide_eq_false (by omega)).symm

/-- The bytewise step of R248 is the eight steps over all four bytes. -/
theorem edcByte_eq_edcSteps (e : BitVec 32) (b : Byte) :
    edcByte Config.hw e b = edcSteps (e ^^^ b.setWidth 32) := by
  have low : ∀ k, k < 8 → ((e ^^^ b.setWidth 32) &&& ~~~0xFF#32).getLsbD k = false := fun k hk => by
    rw [BitVec.getLsbD_and, BitVec.getLsbD_not, getLsbD_mask, decide_eq_true hk, Bool.not_true, Bool.and_false,
      Bool.and_false]
  have high : ((e ^^^ b.setWidth 32) &&& ~~~0xFF#32) >>> 8 = e >>> 8 := BitVec.eq_of_getLsbD_eq fun i _ => by
    simp only [BitVec.getLsbD_ushiftRight, BitVec.getLsbD_and, BitVec.getLsbD_xor, BitVec.getLsbD_setWidth,
      BitVec.getLsbD_not, getLsbD_mask, BitVec.getLsbD_of_ge b (8 + i) (by omega), decide_eq_false (show ¬ 8 + i < 8 by omega),
      Bool.and_false, Bool.xor_false, Bool.not_false, Bool.and_true]
    by_cases h : 8 + i < 32
    · simp [h]
    · simp [h, BitVec.getLsbD_of_ge e (8 + i) (by omega)]
  rw [← and_xor_and_not (e ^^^ b.setWidth 32) 0xFF#32, edcSteps_xor, edcSteps, edcSteps, edcBit_iterate_of_zero 8 low,
    high, edcByte_hw, BitVec.xor_comm]
  rfl

/-- One byte of the checksum is linear in the checksum so far and the byte. -/
theorem edcByte_xor (e f : BitVec 32) (x y : Byte) :
    edcByte Config.hw (e ^^^ f) (x ^^^ y) = edcByte Config.hw e x ^^^ edcByte Config.hw f y := by
  rw [edcByte_eq_edcSteps, edcByte_eq_edcSteps, edcByte_eq_edcSteps, ← edcSteps_xor, BitVec.setWidth_xor]
  exact congrArg edcSteps (by ac_rfl)

theorem edcByte_injective {e f : BitVec 32} {x y : Byte} (h : edcByte Config.hw e x = edcByte Config.hw f y) :
    e ^^^ x.setWidth 32 = f ^^^ y.setWidth 32 := by
  rw [edcByte_eq_edcSteps, edcByte_eq_edcSteps] at h
  exact BitVec.xor_eq_zero_iff.1 (edcSteps_eq_zero (by rw [edcSteps_xor, h]; exact BitVec.xor_self))

/-- The checksum of `bs` from the checksum `e` on. -/
def edcFrom (e : BitVec 32) (bs : List Byte) : BitVec 32 := bs.foldl (edcByte Config.hw) e

theorem edc_eq_edcFrom (bs : List Byte) : edc Config.hw bs = edcFrom 0 bs := by
  rw [edc, hw_edcInit, hw_edcXorOut]
  exact BitVec.xor_zero

theorem edcFrom_xor (e f : BitVec 32) {xs ys : List Byte} (h : xs.length = ys.length) :
    edcFrom (e ^^^ f) (List.zipWith (fun x y => x ^^^ y) xs ys) = edcFrom e xs ^^^ edcFrom f ys := by
  induction xs generalizing ys e f with
  | nil => cases ys with
    | nil => rfl
    | cons y ys => cases h
  | cons x xs ih => cases ys with
    | nil => cases h
    | cons y ys =>
      have step := ih (edcByte Config.hw e x) (edcByte Config.hw f y) (Nat.succ.inj h)
      rw [← edcByte_xor] at step
      exact step

theorem edcFrom_injective (bs : List Byte) {e f : BitVec 32} (h : edcFrom e bs = edcFrom f bs) : e = f := by
  induction bs generalizing e f with
  | nil => exact h
  | cons b bs ih => exact (BitVec.xor_left_inj _).1 (edcByte_injective (ih h))

theorem edcFrom_zeros (n : Nat) : edcFrom 0 (List.replicate n 0) = 0 := by
  induction n with
  | zero => rfl
  | succ n ih =>
    have zero : edcByte Config.hw 0 0 = 0 := by decide
    exact (congrArg (fun e => edcFrom e (List.replicate n 0)) zero).trans ih

/-- Settles O41: a byte's step is the eight steps of R247 on the exclusive or, and these are linear and injective. -/
theorem edcDetectsAChangedByte : Obligations.EdcDetectsAChangedByte := by
  refine ⟨⟨rfl, fun i => ?_, fun bs b => ?_⟩, fun xs ys h => ?_, fun n => ?_, fun before after x y hxy h => hxy ?_⟩
  · rw [edcLut_hw, edcSteps_eq]
  · rw [edc_eq_edcFrom, edc_eq_edcFrom, edcFrom, List.foldl_append, ← edcSteps_eq]
    exact edcByte_hw _ b
  · rw [edc_eq_edcFrom, edc_eq_edcFrom, edc_eq_edcFrom, ← edcFrom_xor 0 0 h]
    rfl
  · rw [edc_eq_edcFrom, edcFrom_zeros]
  · rw [edc_eq_edcFrom, edc_eq_edcFrom, edcFrom, edcFrom, List.foldl_append, List.foldl_append] at h
    have same := edcByte_injective (edcFrom_injective after h)
    have bytes := congrArg (BitVec.setWidth 8) ((BitVec.xor_right_inj _).1 same)
    rwa [BitVec.setWidth_setWidth_of_le _ (by decide), BitVec.setWidth_setWidth_of_le _ (by decide), BitVec.setWidth_eq,
      BitVec.setWidth_eq] at bytes

end Sys2Proof.Machine
end

section
/-! SUPPORT. The check of `CFG` and the start of a stream (spec/60_exceptions.md R322, spec/44_stream_sequencing.md R282),
the reads of unwritten state (R46) and the host's writes (R332): O9, O11, O10. -/

namespace Sys2Proof.Machine

/-! ## The seven clauses as a walk over the checked fields (R322) -/

/-- The clause of `cfg_valid` that checks a field (R322). -/
def clauseOf : Item → Nat
  | .cfgFormat => 1
  | .cfgBits => 2
  | .cfgChannels => 3
  | .cfgFrequency => 4
  | .cfgInterleave | .cfgAlignment => 5
  | .cfgWidth | .cfgHeight => 6
  | .cfgFile | .cfgChannel | .cfgLoop => 7
  | .mb | .fb | .fbc | .sec => 0

/-- The check of one field as the model computes it. -/
def Settings.passes (g : Settings) : Item → Bool
  | .cfgFormat => formatKnown g.format.val
  | .cfgBits => decide (g.bits.val = 4)
  | .cfgChannels => !formatKnown g.format.val || channelsValid g.format.val g.channels.val
  | .cfgFrequency => frequencyValid Config.hw g.format.val g.frequency.val
  | .cfgInterleave => decide (0 < g.interleave.val ∧ g.interleave.val % 16 = 0)
  | .cfgAlignment => decide (0 < g.alignment.val)
  | .cfgWidth => decide (0 < g.width.val ∧ g.width.val % 16 = 0)
  | .cfgHeight => decide (0 < g.height.val ∧ g.height.val % 16 = 0)
  | .cfgFile => decide (g.file.val ≤ 255)
  | .cfgChannel => decide (g.channel.val ≤ 255)
  | .cfgLoop => decide (g.loop.val ≤ 1)
  | .mb | .fb | .fbc | .sec => true

theorem Settings.passes_iff (g : Settings) (item : Item) : g.passes item = true ↔ g.FieldOk item := by
  cases item with
  | cfgFormat => cases h : g.format.val <;> simp [Settings.passes, Settings.FieldOk, Settings.Clause, formatKnown, h]
  | cfgChannels => cases h : g.format.val <;> simp [Settings.passes, Settings.FieldOk, Settings.Clause, channelsValid,
    formatKnown, h]
  | cfgFrequency => cases h : g.format.val <;> simp [Settings.passes, Settings.FieldOk, Settings.Clause, frequencyValid, h]
  | _ => simp [Settings.passes, Settings.FieldOk, Settings.Clause]

/-- The check of a list of fields, one after another (R322; log 31). -/
def Settings.walk (g : Settings) (k : Option Nat → Result) : List (Item × Bool) → Result
  | [] => k none
  | (item, read) :: rest =>
    if g.has item then if g.passes item then g.walk k rest else k (some (clauseOf item))
    else if read then .refused (.unwritten item)
    else g.walk k rest

/-- `cfg_valid` checks the fields of its format in their order. -/
theorem cfgValid_eq_walk (g : Settings) (k : Option Nat → Result) : cfgValid Config.hw g k = g.walk k g.checked := by
  cases h : g.format.val <;>
    simp [cfgValid, cfgValidRest, cfgValidInterleave, cfgValidVideo, cfgValidLast, checkSetting, need, Settings.checked,
      Settings.walk, Settings.has, Settings.passes, clauseOf, Format.sectored, formatKnown, h]

section
variable {g : Settings} {k : Option Nat → Result}

/-- Where the first field that is read but unwritten stands, the fields before it passing. -/
theorem Settings.walk_unwritten {before after : List (Item × Bool)} {item : Item}
    (hbefore : ∀ p ∈ before, (p.2 = true → g.has p.1 = true) ∧ (g.has p.1 = true → g.FieldOk p.1))
    (hitem : g.has item = false) : g.walk k (before ++ (item, true) :: after) = .refused (.unwritten item) := by
  induction before with
  | nil => simp [Settings.walk, hitem]
  | cons p before ih =>
    obtain ⟨read, passes⟩ := hbefore p (by simp)
    have rest := ih fun q hq => hbefore q (by simp [hq])
    cases hp : g.has p.1 with
    | true => simp [Settings.walk, hp, (g.passes_iff p.1).2 (passes hp), rest]
    | false =>
      have unread : p.2 = false := by
        cases h2 : p.2 with
        | true => rw [hp] at read; cases read h2
        | false => rfl
      simp [Settings.walk, hp, unread, rest]

/-- Every field passes. -/
theorem Settings.walk_passes {l : List (Item × Bool)} (hread : ∀ p ∈ l, p.2 = true → g.has p.1 = true)
    (hok : ∀ p ∈ l, g.has p.1 = true → g.FieldOk p.1) : g.walk k l = k none := by
  induction l with
  | nil => rfl
  | cons p l ih =>
    have rest := ih (fun q hq => hread q (by simp [hq])) fun q hq => hok q (by simp [hq])
    have unread := hread p (by simp)
    cases hp : g.has p.1 with
    | true => simp [Settings.walk, hp, (g.passes_iff p.1).2 (hok p (by simp) hp), rest]
    | false =>
      rw [hp] at unread
      have h2 : p.2 = false := Bool.eq_false_iff.2 fun h => by cases unread h
      simp [Settings.walk, hp, h2, rest]

/-- A field of clause `n` fails, and none of an earlier clause. -/
theorem Settings.walk_fails {l : List (Item × Bool)} {n : Nat} (hread : ∀ p ∈ l, p.2 = true → g.has p.1 = true)
    (hsorted : l.Pairwise fun p q => clauseOf p.1 ≤ clauseOf q.1)
    (hearlier : ∀ p ∈ l, clauseOf p.1 < n → g.has p.1 = true → g.FieldOk p.1)
    (hfails : ∃ p ∈ l, clauseOf p.1 = n ∧ g.has p.1 = true ∧ ¬ g.FieldOk p.1) : g.walk k l = k (some n) := by
  induction l with
  | nil =>
    obtain ⟨p, hp, -⟩ := hfails
    cases hp
  | cons p l ih =>
    obtain ⟨after, sorted⟩ := List.pairwise_cons.1 hsorted
    obtain ⟨q, hq, hqn, hqhas, hqok⟩ := hfails
    have unread := hread p (by simp)
    have rest (hp : q ≠ p) : g.walk k l = k (some n) :=
      ih (fun q hq => hread q (by simp [hq])) sorted (fun q hq => hearlier q (by simp [hq]))
        ⟨q, (List.mem_cons.1 hq).resolve_left hp, hqn, hqhas, hqok⟩
    cases hp : g.has p.1 with
    | false =>
      rw [hp] at unread
      have h2 : p.2 = false := Bool.eq_false_iff.2 fun h => by cases unread h
      have other : q ≠ p := fun h => by rw [h, hp] at hqhas; cases hqhas
      simp [Settings.walk, hp, h2, rest other]
    | true =>
      by_cases hok : g.FieldOk p.1
      · have other : q ≠ p := fun h => hqok (h ▸ hok)
        simp [Settings.walk, hp, (g.passes_iff p.1).2 hok, rest other]
      · have atMost : clauseOf p.1 ≤ n := by
          rcases List.mem_cons.1 hq with rfl | hq
          · omega
          · exact hqn ▸ after q hq
        have atLeast : n ≤ clauseOf p.1 := Nat.le_of_not_lt fun h => hok (hearlier p (by simp) h hp)
        have fails : g.passes p.1 = false := Bool.eq_false_iff.2 fun h => hok ((g.passes_iff p.1).1 h)
        simp [Settings.walk, hp, fails, Nat.le_antisymm atMost atLeast]

end

theorem Settings.checked_sorted (g : Settings) : g.checked.Pairwise fun p q => clauseOf p.1 ≤ clauseOf q.1 := by
  cases h : g.format.val <;> simp [Settings.checked, clauseOf, h]

theorem Settings.Written.checked {g : Settings} (hg : g.Written) : ∀ p ∈ g.checked, p.2 = true → g.has p.1 = true := by
  obtain ⟨h1, h2, h3, h4, sector, loop, interleave, alignment, size⟩ := hg
  cases h : g.format.val <;>
    simp_all [Settings.checked, Settings.has, Format.sectored, Format.interleaved, Format.video]

section
variable {g : Settings} (hg : g.Written)
include hg

theorem Settings.clause_iff_of_le {n : Nat} (h1 : 1 ≤ n) (h4 : n ≤ 4) :
    g.Clause n ↔ ∀ p ∈ g.checked, clauseOf p.1 = n → g.has p.1 = true → g.FieldOk p.1 := by
  obtain ⟨w1, w2, w3, w4, -, -, -, -, -⟩ := hg
  interval_cases n <;> cases h : g.format.val <;>
    simp [Settings.checked, Settings.has, clauseOf, Settings.FieldOk, h, w1, w2, w3, w4]

theorem Settings.clause_iff_interleave :
    g.Clause 5 ↔ ∀ p ∈ g.checked, clauseOf p.1 = 5 → g.has p.1 = true → g.FieldOk p.1 := by
  cases h : g.format.val with
  | spui =>
    have w := hg.interleave (.inl h)
    simp [Settings.checked, Settings.has, clauseOf, Settings.FieldOk, Settings.Clause, h, w]
  | vagi =>
    have w := hg.interleave (.inr h)
    have a := hg.alignment h
    simp [Settings.checked, Settings.has, clauseOf, Settings.FieldOk, Settings.Clause, h, w, a]
  | _ => simp [Settings.checked, clauseOf, Settings.Clause, h]

theorem Settings.clause_iff_size :
    g.Clause 6 ↔ ∀ p ∈ g.checked, clauseOf p.1 = 6 → g.has p.1 = true → g.FieldOk p.1 := by
  cases h : g.format.val with
  | str2 =>
    obtain ⟨w, e⟩ := hg.size (.inl h)
    simp [Settings.checked, Settings.has, clauseOf, Settings.FieldOk, Settings.Clause, h, w, e, and_assoc]
  | str2cd =>
    obtain ⟨w, e⟩ := hg.size (.inr h)
    simp [Settings.checked, Settings.has, clauseOf, Settings.FieldOk, Settings.Clause, h, w, e, and_assoc]
  | _ => simp [Settings.checked, clauseOf, Settings.Clause, h]

omit hg in
theorem Settings.clause_iff_last :
    g.Clause 7 ↔ ∀ p ∈ g.checked, clauseOf p.1 = 7 → g.has p.1 = true → g.FieldOk p.1 := by
  cases h : g.format.val <;>
    simp [Settings.checked, Settings.has, clauseOf, Settings.FieldOk, Settings.Clause, h]

/-- A clause asks what it asks of its fields (R322). -/
theorem Settings.clause_iff {n : Nat} (h1 : 1 ≤ n) (h7 : n ≤ 7) :
    g.Clause n ↔ ∀ p ∈ g.checked, clauseOf p.1 = n → g.has p.1 = true → g.FieldOk p.1 := by
  rcases Nat.lt_or_ge n 5 with h | h
  · exact Settings.clause_iff_of_le hg h1 (by omega)
  · obtain rfl | rfl | rfl : n = 5 ∨ n = 6 ∨ n = 7 := by omega
    · exact Settings.clause_iff_interleave hg
    · exact Settings.clause_iff_size hg
    · exact Settings.clause_iff_last

end

theorem Settings.checked_clause (g : Settings) : ∀ p ∈ g.checked, 1 ≤ clauseOf p.1 ∧ clauseOf p.1 ≤ 7 := by
  cases h : g.format.val <;> simp [Settings.checked, clauseOf, h]

theorem cfgValid_of_valid {g : Settings} (hg : g.Written) (hv : g.Valid) (k : Option Nat → Result) :
    cfgValid Config.hw g k = k none := by
  rw [cfgValid_eq_walk]
  refine Settings.walk_passes hg.checked fun p hp => ?_
  have clause := g.checked_clause p hp
  exact (Settings.clause_iff hg clause.1 clause.2).1 (hv _ clause.1 clause.2) p hp rfl

theorem cfgValid_of_fails {g : Settings} (hg : g.Written) {n : Nat} (h1 : 1 ≤ n) (h7 : n ≤ 7) (hn : ¬ g.Clause n)
    (hearlier : ∀ m, 1 ≤ m → m < n → g.Clause m) (k : Option Nat → Result) : cfgValid Config.hw g k = k (some n) := by
  rw [cfgValid_eq_walk]
  refine Settings.walk_fails hg.checked g.checked_sorted (fun p hp hlt => ?_) ?_
  · have clause := g.checked_clause p hp
    exact (Settings.clause_iff hg clause.1 clause.2).1 (hearlier _ clause.1 hlt) p hp rfl
  · by_contra none
    exact hn ((Settings.clause_iff hg h1 h7).2 fun p hp hpn hhas => by_contra fun hok => none ⟨p, hp, hpn, hhas, hok⟩)

theorem exec_sysValidate {s : State} (hf : s.fault = false) : exec .sysValidate s = sysValidate Config.hw s :=
  unlessFaulted_ok hf _

theorem startStream_of_fails {s : State} (hg : s.cfg.Written) (hp : s.phase = .init) {n : Nat} (h1 : 1 ≤ n) (h7 : n ≤ 7)
    (hn : ¬ s.cfg.Clause n) (hearlier : ∀ m, 1 ≤ m → m < n → s.cfg.Clause m) (f : State → Result) :
    andThen (startStream Config.hw s) f = raise .configInvalid n s := by
  rw [startStream, needInit_of_init hp, cfgValid_of_fails hg h1 h7 hn hearlier]
  rfl

/-- Settles O9: the check is a walk over the fields the format's clauses name. -/
theorem validateChecksEveryClause : Obligations.ValidateChecksEveryClause := by
  intro s hf hg
  rw [exec_sysValidate hf]
  refine ⟨fun hv => cfgValid_of_valid hg hv _, fun k h1 h7 hk hearlier => ?_⟩
  refine ⟨cfgValid_of_fails hg h1 h7 hk hearlier _, fun hp => ?_⟩
  have start := startStream_of_fails hg hp h1 h7 hk hearlier
  exact ⟨(unlessFaulted_ok hf _).trans (start _), (unlessFaulted_ok hf _).trans (start _),
    (unlessFaulted_ok hf _).trans (start _), (unlessFaulted_ok hf _).trans (start _)⟩

end Sys2Proof.Machine
end

section
/-! SUPPORT. The start of a stream (spec/44_stream_sequencing.md R281, R282), the reads of unwritten state (R46) and the
host's writes (R332): O11, O10. -/

namespace Sys2Proof.Machine

/-! ## The start of a stream (R282) -/

/-- A stream that starts has zeroed the channels it uses; nothing else but the phase and the frame number is another. -/
structure State.Started (s t : State) : Prop where
  frame : t = { s with ch := t.ch, fcFrameIndex := Config.hw.firstFrame, phase := .encoding }
  zero : ∀ k, k < s.cfg.channels.val → t.channel k = Channel.zero

theorem adResets_run {s : State} (hf : s.fault = false) (hw : s.cfg.channels.written = true) :
    ∃ t, forEach (List.range s.cfg.channels.val) adReset s = .next t ∧ t.fault = false ∧
      t = { s with ch := t.ch } ∧ ∀ k, k < s.cfg.channels.val → t.channel k = Channel.zero := by
  refine forEach_range_runs (P := fun n t => t = { s with ch := t.ch } ∧ ∀ k, k < n → t.channel k = Channel.zero) _
    (fun i t hi ht => ?_) s hf ⟨rfl, fun k hk => absurd hk (Nat.not_lt_zero k)⟩
  obtain ⟨frame, zero⟩ := ht
  have cfg : t.cfg = s.cfg := by rw [frame]
  have fault : t.fault = false := by rw [frame]; exact hf
  refine ⟨t.putChannel i Channel.zero, ?_, fault, ?_, fun k hk => ?_⟩
  · rw [adReset, checkChannel_of_lt (by rw [cfg]; exact hw) (by rw [cfg]; exact hi)]
  · rw [frame]
    rfl
  · rw [State.channel_putChannel]
    split
    · rfl
    · exact zero k (by omega)

theorem startStream_runs {s : State} (hs : s.StreamReady) :
    ∃ t, startStream Config.hw s = .next t ∧ t.fault = false ∧ s.Started t := by
  obtain ⟨hf, hp, hw, hv⟩ := hs
  obtain ⟨t, run, fault, frame, zero⟩ := adResets_run hf hw.channels
  refine ⟨{ t with fcFrameIndex := Config.hw.firstFrame, phase := .encoding }, ?_, fault, ?_, zero⟩
  · rw [startStream, needInit_of_init hp, cfgValid_of_valid hw hv, need_written hw.channels, run, andThen_next_ok fault]
  · rw [frame]

/-! ## Reads of unwritten state (R46) -/

theorem need_unwritten {α : Type} {m : Marked α} {item : Item} {k : α → Result} (h : m.written = false) :
    need m item k = .refused (.unwritten item) := if_neg (by simp [h])

theorem needSize_of_width {s : State} (h : s.cfg.width.written = false) (k : Nat → Nat → Result) :
    needSize s k = .refused (.unwritten .cfgWidth) := need_unwritten h

theorem needSize_of_height {s : State} (hw : s.cfg.width.written = true) (h : s.cfg.height.written = false)
    (k : Nat → Nat → Result) : needSize s k = .refused (.unwritten .cfgHeight) := by
  rw [needSize, need_written hw, need_unwritten h]

theorem forEach_range_refused {n : Nat} {f : Nat → State → Result} {s : State} {e : Refusal} (hn : 0 < n)
    (h : f 0 s = .refused e) : forEach (List.range n) f s = .refused e := by
  obtain ⟨m, rfl⟩ : ∃ m, n = m + 1 := ⟨n - 1, by omega⟩
  rw [List.range_succ_eq_map, forEach_cons, h, andThen_refused]

theorem chunkLoop_refused {n : Nat} {f : Nat → State → Result} {s : State} {e : Refusal} (hn : 0 < n)
    (h : f 0 (s.finalizeAt (0 + 1 == n)) = .refused e) : chunkLoop n f s = .refused e := by
  rw [chunkLoop, forEach_range_refused (f := fun i s => f i (s.finalizeAt (i + 1 == n))) hn h, andThen_refused]

@[simp] theorem State.finalizeAt_cfg (s : State) (last : Bool) : (s.finalizeAt last).cfg = s.cfg := by
  cases last <;> rfl

/-- A buffer none of whose bytes is written lists none. -/
theorem Memory.cells_of_read {m : Memory} (h : ∀ a, m.read? a = none) : m.cells = [] := by
  cases hm : m.cells with
  | nil => rfl
  | cons p rest =>
    have head : m.read? p.1 = some p.2 := by
      rw [Memory.read?, hm, Store.lookup, if_pos rfl]
    rw [h] at head
    cases head

theorem needSec_unwritten {s : State} (h : ∀ a, s.sec.read? a = none) (r : Result) :
    needSec s r = .refused (.unwritten .sec) := by
  rw [needSec, Memory.cells_of_read h]
  rfl

theorem snapshotWritten_of_unwritten {st : Store QBlock} {n key : Nat} (hkey : key < 6 * n)
    (h : Store.lookup st key = none) : snapshotWritten st n = false := by
  rw [snapshotWritten, List.all_eq_false]
  exact ⟨key, List.mem_range.2 hkey, by simp [h]⟩

/-! ### The counts of a stream (R283, R284) -/

theorem ceilDiv_pos {a b : Nat} (ha : 0 < a) (hb : 0 < b) : 0 < ceilDiv a b := by
  rw [ceilDiv, if_neg (by omega), if_neg (by omega)]
  exact Nat.div_pos (by omega) hb

theorem countDiv_of_pos {a b : Nat} (hb : 0 < b) : countDiv a b = a / b := by
  rw [countDiv, if_neg (by omega : ¬ b = 0)]
  split
  · next h => rw [h, Nat.zero_div]
  · rfl

/-- The coding-info byte is a byte, whatever code an odd setting gets (R109; log 42). -/
theorem codingOf_le (ch hz bits : Nat) : codingOf Config.hw ch hz bits ≤ 0xFF := by
  have field : ∀ pos first second value, pos ≤ 4 → codingField pos first second value < 2 ^ 6 := by
    intro pos first second value hpos
    have two : (if value = first then 0 else if value = second then 1 else (Config.freeCoding pos value).toNat) < 2 ^ 2 := by
      split_ifs
      · decide
      · decide
      · exact (Config.freeCoding pos value).isLt
    rw [codingField, Nat.shiftLeft_eq]
    calc _ < 2 ^ 2 * 2 ^ pos := Nat.mul_lt_mul_of_pos_right two (Nat.two_pow_pos pos)
      _ = 2 ^ (2 + pos) := (Nat.pow_add 2 2 pos).symm
      _ ≤ 2 ^ 6 := Nat.pow_le_pow_right (by decide) (by omega)
  have fields : codingOf Config.hw ch hz bits < 2 ^ 6 := by
    rw [codingOf, hw_codingBits]
    exact Nat.or_lt_two_pow (Nat.or_lt_two_pow (field _ _ _ _ (by decide)) (field _ _ _ _ (by decide)))
      (field _ _ _ _ (by decide))
  omega

theorem submodeOf_le (kind : SectorKind) (last : Bool) : submodeOf Config.hw kind last ≤ 0xFF := by
  cases kind <;> cases last <;> decide

/-- The selector of a written, valid `CFG` is one of the eight, and it has a channel (R322). -/
theorem State.StreamReady.channels_pos {s : State} (hs : s.StreamReady) : 0 < s.cfg.channels.val := by
  have format := hs.valid 1 (by decide) (by decide)
  obtain ⟨spu, xa, spui⟩ := hs.valid 3 (by decide) (by decide)
  rcases format with h | h | h | h | h | h | h | h
  · exact (xa (.inl h)).elim (fun e => by omega) fun e => by omega
  · exact (xa (.inr (.inl h))).elim (fun e => by omega) fun e => by omega
  · exact (spu (.inl h)).symm ▸ Nat.one_pos
  · exact spui (.inl h)
  · exact (spu (.inr h)).symm ▸ Nat.one_pos
  · exact spui (.inr h)
  · exact (xa (.inr (.inr (.inl h)))).elim (fun e => by omega) fun e => by omega
  · exact (xa (.inr (.inr (.inr h)))).elim (fun e => by omega) fun e => by omega

theorem scInit_unwritten {s : State} {submode coding : Nat} (hs : submode ≤ 0xFF) (hc : coding ≤ 0xFF) :
    (s.cfg.file.written = false → scInit submode coding s = .refused (.unwritten .cfgFile)) ∧
      (s.cfg.file.written = true → s.cfg.channel.written = false →
        scInit submode coding s = .refused (.unwritten .cfgChannel)) := by
  rw [scInit, if_neg (by omega), if_neg (by omega)]
  exact ⟨fun h => need_unwritten h, fun h1 h2 => by rw [need_written h1, need_unwritten h2]⟩

theorem checkChannel_unwritten {s : State} (h : s.cfg.channels.written = false) (c : Nat) (r : Result) :
    checkChannel c s r = .refused (.unwritten .cfgChannels) := need_unwritten h

theorem vdBegin_of_height {s : State} (hw : s.cfg.width.written = true) (hpos : 0 < s.cfg.width.val)
    (hmod : s.cfg.width.val % 16 = 0) (hh : s.cfg.height.written = false) :
    vdBegin Config.hw s = .refused (.unwritten .cfgHeight) := by
  rw [vdBegin, need_written hw, if_neg (by omega), need_unwritten hh]

section
variable {s : State} (hf : s.fault = false)
include hf

theorem ad_refused (hch : s.cfg.channels.written = false) (c base stride f r fc dbase ds dp : Nat) :
    exec (.adReset c) s = .refused (.unwritten .cfgChannels) ∧
      exec (.adMinshift c base stride f) s = .refused (.unwritten .cfgChannels) ∧
      exec (.adTrial c base stride f r) s = .refused (.unwritten .cfgChannels) ∧
      exec (.adEncode c base stride fc dbase ds dp) s = .refused (.unwritten .cfgChannels) :=
  ⟨(unlessFaulted_ok hf _).trans (checkChannel_unwritten hch c _),
    (unlessFaulted_ok hf _).trans (checkChannel_unwritten hch c _),
    (unlessFaulted_ok hf _).trans (checkChannel_unwritten hch c _),
    (unlessFaulted_ok hf _).trans (checkChannel_unwritten hch c _)⟩

theorem vdCsc_refused_width (hw : s.cfg.width.written = false) (n mx my : Nat) :
    exec (.vdCsc n mx my) s = .refused (.unwritten .cfgWidth) := (unlessFaulted_ok hf _).trans (need_unwritten hw)

theorem vdCsc_refused_height (hw : s.cfg.width.written = true) (hh : s.cfg.height.written = false) {n mx my : Nat}
    (hx : mx < s.cfg.width.val / 16) : exec (.vdCsc n mx my) s = .refused (.unwritten .cfgHeight) := by
  have inside : ¬ macroblocks s.cfg.width.val ≤ mx := Nat.not_le.2 hx
  rw [exec_vdCsc n mx my hf, vdCsc, need_written hw, if_neg inside, need_unwritten hh]

/-- The commands that read both dimensions first, in the ranges of their other operands. -/
theorem vdSized_refused {b : Nat} (hb : b ≤ 5) (hout : s.out.length ≤ 14112) (m : Nat) {item : Item}
    (hneed : ∀ k, needSize s k = .refused (.unwritten item)) :
    ∀ i ∈ [Instr.vdQuant b m, .vdRate, .vdPack m b, .vdDemux], exec i s = .refused (.unwritten item) := by
  have block : ¬ 5 < b := Nat.not_lt.2 hb
  have bytes : ¬ Config.hw.frameBytes < s.out.length := Nat.not_lt.2 hout
  have run : exec (.vdQuant b m) s = .refused (.unwritten item) ∧ exec .vdRate s = .refused (.unwritten item) ∧
      exec (.vdPack m b) s = .refused (.unwritten item) ∧ exec .vdDemux s = .refused (.unwritten item) :=
    ⟨(unlessFaulted_ok hf _).trans ((if_neg block).trans (hneed _)), (unlessFaulted_ok hf _).trans (hneed _),
      (unlessFaulted_ok hf _).trans ((if_neg block).trans (hneed _)),
      (unlessFaulted_ok hf _).trans ((if_neg bytes).trans (hneed _))⟩
  simp only [List.forall_mem_cons, List.not_mem_nil, false_implies, implies_true, and_true]
  exact run

/-- VD.BEGIN and so VD.FRAME. -/
theorem vdBegin_refused (n : Nat) {item : Item} (h : vdBegin Config.hw s = .refused (.unwritten item)) :
    ∀ i ∈ [Instr.vdBegin, .vdFrame n], exec i s = .refused (.unwritten item) := by
  have frame : vdFrame Config.hw n s = .refused (.unwritten item) := by rw [vdFrame, h, andThen_refused]
  simp only [List.forall_mem_cons, List.not_mem_nil, false_implies, implies_true, and_true]
  exact ⟨(unlessFaulted_ok hf _).trans h, (unlessFaulted_ok hf _).trans frame⟩

theorem mb_refused (hmb : s.mb.written = false) {b : Nat} (hb : b ≤ 5) :
    exec (.vdDct b) s = .refused (.unwritten .mb) ∧
      (s.cfg.width.written = true ∧ s.cfg.height.written = true →
        ∀ m, m < s.cfg.width.val / 16 * (s.cfg.height.val / 16) → exec (.vdQuant b m) s = .refused (.unwritten .mb)) := by
  have block : ¬ 5 < b := Nat.not_lt.2 hb
  refine ⟨(unlessFaulted_ok hf _).trans ((if_neg block).trans (need_unwritten hmb)), fun ⟨hw, hh⟩ m hm => ?_⟩
  have inside : ¬ nmb s.cfg.width.val s.cfg.height.val ≤ m := Nat.not_le.2 hm
  rw [exec_vdQuant b m hf, vdQuant, if_neg block, needSize_written hw hh, if_neg inside, need_unwritten hmb]

theorem frame_refused (hw : s.cfg.width.written = true) (hh : s.cfg.height.written = true) :
    (∀ m b, b ≤ 5 → m < s.cfg.width.val / 16 * (s.cfg.height.val / 16) → Store.lookup s.fbc (6 * m + b) = none →
      exec (.vdPack m b) s = .refused (.unwritten .fbc)) ∧
    ∀ key, key < 6 * (s.cfg.width.val / 16 * (s.cfg.height.val / 16)) → Store.lookup s.fb key = none →
      exec .vdRate s = .refused (.unwritten .fb) := by
  refine ⟨fun m b hb hm hkey => ?_, fun key hkey hfb => ?_⟩
  · have block : ¬ 5 < b := Nat.not_lt.2 hb
    have inside : ¬ nmb s.cfg.width.val s.cfg.height.val ≤ m := Nat.not_le.2 hm
    rw [exec_vdPack m b hf, vdPack, if_neg block, needSize_written hw hh, if_neg inside, blockKey, hkey]
  · have unwritten : ¬ snapshotWritten s.fb (nmb s.cfg.width.val s.cfg.height.val) = true := by
      rw [snapshotWritten_of_unwritten (n := nmb s.cfg.width.val s.cfg.height.val) hkey hfb]
      decide
    refine (unlessFaulted_ok hf _).trans ?_
    rw [vdRate, needSize_written hw hh, if_neg unwritten]

theorem scInit_refused {submode coding : Nat} (hs : submode ≤ 0xFF) (hc : coding ≤ 0xFF) :
    (s.cfg.file.written = false → exec (.scInit submode coding) s = .refused (.unwritten .cfgFile)) ∧
      (s.cfg.file.written = true → s.cfg.channel.written = false →
        exec (.scInit submode coding) s = .refused (.unwritten .cfgChannel)) := by
  rw [exec_scInit submode coding hf]
  exact scInit_unwritten hs hc

theorem sec_refused (hsec : ∀ a, s.sec.read? a = none) :
    exec (.scEmit 2352) s = .refused (.unwritten .sec) ∧ exec (.scEmit 2336) s = .refused (.unwritten .sec) ∧
      (s.tbuilt = true → exec (.scEdc 1) s = .refused (.unwritten .sec) ∧
        exec (.scEdc 2) s = .refused (.unwritten .sec) ∧ exec .scPq s = .refused (.unwritten .sec)) := by
  rw [exec_scEmit 2352 hf, exec_scEmit 2336 hf, exec_scEdc 1 hf, exec_scEdc 2 hf, exec_scPq hf]
  have refuse := fun r => needSec_unwritten hsec r
  refine ⟨by rw [scEmit, hw_sectorBytes, if_pos rfl, refuse], ?_, fun hb => ?_⟩
  · rw [scEmit, hw_sectorBytes, if_neg (by decide), if_pos rfl, refuse]
  · have built : ¬ s.tbuilt = false := by simp [hb]
    exact ⟨by rw [scEdc, if_neg built, if_neg (by decide), refuse],
      by rw [scEdc, if_neg built, if_neg (by decide), refuse], by rw [scPq, if_neg built, refuse]⟩

theorem validate_refused {before after : List (Item × Bool)} {item : Item}
    (hl : s.cfg.checked = before ++ (item, true) :: after)
    (hbefore : ∀ p ∈ before, (p.2 = true → s.cfg.has p.1 = true) ∧ (s.cfg.has p.1 = true → s.cfg.FieldOk p.1))
    (hitem : s.cfg.has item = false) : exec .sysValidate s = .refused (.unwritten item) ∧
      (s.phase = .init → ∀ i ∈ [Instr.mxXa, .mxSpu, .mxSpui, .mxStr], exec i s = .refused (.unwritten item)) := by
  have check : ∀ k, cfgValid Config.hw s.cfg k = .refused (.unwritten item) := fun k => by
    rw [cfgValid_eq_walk, hl, Settings.walk_unwritten hbefore hitem]
  refine ⟨(unlessFaulted_ok hf _).trans (check _), fun hp => ?_⟩
  have start : ∀ f, andThen (startStream Config.hw s) f = .refused (.unwritten item) := fun f => by
    rw [startStream, needInit_of_init hp, check, andThen_refused]
  simp only [List.forall_mem_cons, List.not_mem_nil, false_implies, implies_true, and_true]
  exact ⟨(unlessFaulted_ok hf _).trans (start _), (unlessFaulted_ok hf _).trans (start _),
    (unlessFaulted_ok hf _).trans (start _), (unlessFaulted_ok hf _).trans (start _)⟩

theorem mxIso2raw_refused (hp : s.phase = .init) (hsize : s.iso.size % 2048 = 0) (hpos : 0 < s.iso.size) :
    (s.cfg.file.written = false → exec .mxIso2raw s = .refused (.unwritten .cfgFile)) ∧
      (s.cfg.file.written = true → s.cfg.channel.written = false →
        exec .mxIso2raw s = .refused (.unwritten .cfgChannel)) := by
  have some : 0 < s.iso.size / 2048 := by omega
  have first : ∀ e, scInit (submodeOf Config.hw .data false) 0 ((s.setPhase .encoding).finalizeAt
      (0 + 1 == s.iso.size / 2048)) = .refused e → exec .mxIso2raw s = .refused e := fun e he => by
    refine (unlessFaulted_ok hf _).trans ?_
    rw [mxIso2raw, needInit_of_init hp, if_neg (by omega), chunkLoop_refused some]
    rw [rawSector, he, andThen_refused]
  obtain ⟨file, channel⟩ := scInit_unwritten (s := (s.setPhase .encoding).finalizeAt (0 + 1 == s.iso.size / 2048))
    (submodeOf_le .data false) (show 0 ≤ 0xFF by decide)
  rw [State.finalizeAt_cfg] at file channel
  exact ⟨fun h => first _ (file h), fun h1 h2 => first _ (channel h1 h2)⟩

end

/-! ### Stream commands under a format that is not their own (log 32) -/

/-- The input of a stream that has started is that of the state before. -/
theorem State.Started.input {s t : State} (h : s.Started t) : t.cfg = s.cfg ∧ t.pcm = s.pcm := by
  rw [h.frame]
  exact ⟨rfl, rfl⟩

theorem spuUnit_refused {s : State} (h : s.cfg.loop.written = false) (c : Config) (n ch j : Nat) (flags : Bool → Byte) :
    spuUnit c n ch j flags s = .refused (.unwritten .cfgLoop) := need_unwritten h

section
variable {s : State} (hs : s.StreamReady)
include hs

theorem mxSpu_refused (hN : 0 < s.pcm.length / s.cfg.channels.val) (hl : s.cfg.loop.written = false) :
    exec .mxSpu s = .refused (.unwritten .cfgLoop) := by
  obtain ⟨t, start, fault, started⟩ := startStream_runs hs
  obtain ⟨cfg, pcm⟩ := started.input
  have blocks : 0 < ceilDiv (samplesPerChannel t s.cfg.channels.val) Config.hw.nsamp := by
    rw [samplesPerChannel, pcm, countDiv_of_pos hs.channels_pos]
    exact ceilDiv_pos hN (by decide)
  refine (unlessFaulted_ok hs.fault _).trans ?_
  rw [mxSpu, start, andThen_next_ok fault, cfg, need_written hs.written.format, need_written hs.written.channels,
    need_written hs.written.frequency]
  refine chunkLoop_refused blocks (spuUnit_refused ?_ _ _ _ _ _)
  rw [State.finalizeAt_cfg]
  split_ifs
  · exact (congrArg (fun g : Settings => g.loop.written) cfg).trans hl
  · exact (congrArg (fun g : Settings => g.loop.written) cfg).trans hl

theorem mxSpui_refused_loop (hfmt : s.cfg.format.val.sectored = true) (hN : 0 < s.pcm.length / s.cfg.channels.val)
    (hl : s.cfg.loop.written = false) (hil : s.cfg.interleave.written = true) (h16 : 16 ≤ s.cfg.interleave.val) :
    exec .mxSpui s = .refused (.unwritten .cfgLoop) := by
  obtain ⟨t, start, fault, started⟩ := startStream_runs hs
  obtain ⟨cfg, pcm⟩ := started.input
  have bi : 0 < s.cfg.interleave.val / 16 := by omega
  have chunks : 0 < ceilDiv (ceilDiv (samplesPerChannel t s.cfg.channels.val) Config.hw.nsamp)
      (s.cfg.interleave.val / 16) := by
    rw [samplesPerChannel, pcm, countDiv_of_pos hs.channels_pos]
    exact ceilDiv_pos (ceilDiv_pos hN (by decide)) bi
  have other : ¬ s.cfg.format.val = .vagi := fun h => by rw [h] at hfmt; cases hfmt
  refine (unlessFaulted_ok hs.fault _).trans ?_
  rw [mxSpui, start, andThen_next_ok fault, cfg, need_written hs.written.format, need_written hs.written.channels,
    need_written hs.written.frequency, need_written hil]
  refine (if_neg other).trans (chunkLoop_refused chunks ?_)
  refine forEach_range_refused hs.channels_pos (forEach_range_refused bi (spuUnit_refused ?_ _ _ _ _ _))
  rw [State.finalizeAt_cfg, cfg]
  exact hl

theorem mxSpui_refused_interleave (hil : s.cfg.interleave.written = false) :
    exec .mxSpui s = .refused (.unwritten .cfgInterleave) := by
  obtain ⟨t, start, fault, started⟩ := startStream_runs hs
  refine (unlessFaulted_ok hs.fault _).trans ?_
  rw [mxSpui, start, andThen_next_ok fault, started.input.1, need_written hs.written.format,
    need_written hs.written.channels, need_written hs.written.frequency, need_unwritten hil]

theorem mxXa_refused (hN : 0 < s.pcm.length / s.cfg.channels.val) (hch : s.cfg.channels.val ≤ 4032) :
    (s.cfg.file.written = false → exec .mxXa s = .refused (.unwritten .cfgFile)) ∧
      (s.cfg.file.written = true → s.cfg.channel.written = false →
        exec .mxXa s = .refused (.unwritten .cfgChannel)) := by
  obtain ⟨t, start, fault, started⟩ := startStream_runs hs
  obtain ⟨cfg, pcm⟩ := started.input
  have perSector : 0 < samplesPerSector Config.hw s.cfg.channels.val := by
    rw [samplesPerSector, countDiv_of_pos hs.channels_pos]
    exact Nat.div_pos hch hs.channels_pos
  have sectors : 0 < ceilDiv (samplesPerChannel t s.cfg.channels.val) (samplesPerSector Config.hw s.cfg.channels.val) := by
    rw [samplesPerChannel, pcm, countDiv_of_pos hs.channels_pos]
    exact ceilDiv_pos hN perSector
  have first : ∀ e, (∀ u : State, u.cfg = s.cfg → ∀ submode coding, submode ≤ 0xFF → coding ≤ 0xFF →
      scInit submode coding u = .refused e) → exec .mxXa s = .refused e := fun e he => by
    refine (unlessFaulted_ok hs.fault _).trans ?_
    rw [mxXa, start, andThen_next_ok fault, cfg, need_written hs.written.format, need_written hs.written.channels]
    refine chunkLoop_refused sectors ?_
    rw [xaChunk, xaSector, State.finalizeAt_cfg, cfg, need_written hs.written.frequency, need_written hs.written.bits,
      he _ (by rw [State.finalizeAt_cfg, cfg]) _ _ (submodeOf_le _ _) (codingOf_le _ _ _), andThen_refused,
      andThen_refused]
  refine ⟨fun h => first _ fun u hu submode coding h1 h2 => ?_, fun h3 h4 => first _ fun u hu submode coding h1 h2 => ?_⟩
  · exact (scInit_unwritten h1 h2).1 (hu ▸ h)
  · exact (scInit_unwritten h1 h2).2 (hu ▸ h3) (hu ▸ h4)

theorem mxStr_refused {item : Item} (h : ∀ u : State, u.cfg = s.cfg → ∀ k, needSize u k = .refused (.unwritten item)) :
    exec .mxStr s = .refused (.unwritten item) := by
  obtain ⟨t, start, fault, started⟩ := startStream_runs hs
  refine (unlessFaulted_ok hs.fault _).trans ?_
  rw [mxStr, start, andThen_next_ok fault, started.input.1, need_written hs.written.format,
    need_written hs.written.channels, h t started.input.1]

end

/-- Settles O11: command by command, the first read that is refused. -/
theorem unwrittenStateIsRefused : Obligations.UnwrittenStateIsRefused := by
  intro s hf g refused nm sized
  refine ⟨fun hch c base stride f r fc dbase ds dp => ad_refused hf hch c base stride f r fc dbase ds dp,
    fun n mx my m b hb hout => ⟨fun hw => vdCsc_refused_width hf hw n mx my,
      fun hw hx hh => vdCsc_refused_height hf hw hh hx, fun i hi => ⟨fun hw => ?_, fun hw hh => ?_⟩⟩,
    fun n i hi => ⟨fun hw => ?_, fun hw hpos hmod hh => ?_⟩, fun hmb b hb => mb_refused hf hmb hb,
    fun ⟨hw, hh⟩ => frame_refused hf hw hh, fun submode coding hs hc => scInit_refused hf hs hc,
    fun hsec => sec_refused hf hsec, fun before after item hl hbefore hitem => validate_refused hf hl hbefore hitem,
    fun hp hsize hpos => mxIso2raw_refused hf hp hsize hpos, fun hs hfmt hN hl => ⟨mxSpu_refused hs hN hl, fun hil h16 => ?_⟩,
    fun hs _ hil => mxSpui_refused_interleave hs hil, fun hs _ hN hch => mxXa_refused hs hN hch,
    fun hs _ => ⟨fun hw => ?_, fun hw hh => ?_⟩⟩
  · exact vdSized_refused hf hb hout m (needSize_of_width hw) i hi
  · exact vdSized_refused hf hb hout m (needSize_of_height hw hh) i hi
  · exact vdBegin_refused hf n (need_unwritten hw) i hi
  · exact vdBegin_refused hf n (vdBegin_of_height hw hpos hmod hh) i hi
  · exact mxSpui_refused_loop hs hfmt hN hl hil h16
  · exact mxStr_refused hs fun u hu => needSize_of_width (hu ▸ hw)
  · exact mxStr_refused hs fun u hu => needSize_of_height (hu ▸ hw) (hu ▸ hh)

/-! ## The host's writes (R332, R41, U13) -/

theorem Memory.read_filled {bs : List Byte} {a : Nat} (h : a < bs.length) (d : Byte) :
    ((Memory.filled bs).read? a).getD d = bs.getD a 0 := by
  rw [Memory.read?, Memory.filled, Store.lookup_indexed, if_pos (Nat.zero_le a), Nat.sub_zero, List.getElem?_eq_getElem h,
    Option.getD_some, List.getD_eq_getElem _ _ h]

theorem Store.lookup_indexed_nonzero (k : Nat) (bs : List Byte) (i : Nat) :
    (Store.lookup ((Store.indexed k bs).filter fun p => decide (p.2 ≠ 0)) i).getD 0 =
      if k ≤ i then bs.getD (i - k) 0 else 0 := by
  induction bs generalizing k with
  | nil => simp [Store.indexed]
  | cons b bs ih =>
    have tail := ih (k + 1)
    have place : (if k ≤ i then (b :: bs).getD (i - k) 0 else 0) =
        if k = i then b else if k + 1 ≤ i then bs.getD (i - (k + 1)) 0 else 0 := by
      rcases Nat.lt_trichotomy k i with h | rfl | h
      · obtain ⟨j, rfl⟩ := Nat.exists_eq_add_of_lt h
        have first : k + j + 1 - k = j + 1 := by omega
        have second : k + j + 1 - (k + 1) = j := by omega
        rw [if_pos (by omega), if_neg (by omega), if_pos (by omega), first, second, List.getD_cons_succ]
      · rw [if_pos (Nat.le_refl k), if_pos rfl, Nat.sub_self, List.getD_cons_zero]
      · rw [if_neg (by omega), if_neg (by omega), if_neg (by omega)]
    rw [place, Store.indexed, List.filter_cons]
    by_cases hb : b = 0
    · rw [if_neg (by simp [hb]), tail]
      by_cases hk : k = i
      · rw [if_pos hk, if_neg (by omega), hb]
      · rw [if_neg hk]
    · rw [if_pos (by simpa using hb), Store.lookup_cons]
      by_cases hk : k = i
      · rw [if_pos hk, if_pos hk, Option.getD_some]
      · rw [if_neg hk, if_neg hk, tail]

/-- One byte of `DATA` as the host filled it, a listed 0 or not. -/
theorem Memory.read_filledZ (bs : List Byte) (a : Nat) : ((Memory.filledZ bs).read? a).getD 0 = bs.getD a 0 := by
  rw [Memory.read?, Memory.filledZ, Store.lookup_indexed_nonzero, if_pos (Nat.zero_le a), Nat.sub_zero]

section
variable {s : State} {rest : List HostMove}

/-- The model's step on a pending action. -/
theorem step_hostAct (m : HostMove) : step { s with moves := m :: rest } = hostAct m { s with moves := rest } := rfl

theorem hostAct_setting (h : s.phase = .init) (w : Setting) :
    hostAct (.setting w) s = .next { s with cfg := s.cfg.write w } := if_pos h

theorem hostAct_setting_refused (h : s.phase ≠ .init) (w : Setting) :
    hostAct (.setting w) s = .refused (.hostWrite (.setting w)) := if_neg h

theorem midStream_iff (p : Phase) : midStream p = true ↔ p = .encoding ∨ p = .finalize := by
  cases p <;> simp [midStream]

theorem hostAct_pcm (h : midStream s.phase = false) (xs : List (BitVec 16)) :
    hostAct (.pcm xs) s = .next { s with pcm := xs } := if_neg (by simp [h])

theorem hostAct_buffer {b : HostBuffer} (h : b.closed s.phase = false) (bytes : List Byte) :
    hostAct (.buffer b bytes) s = .next (s.fillBuffer b bytes) := if_neg (by simp [h])

theorem hostAct_store {b : HostBuffer} {a : Nat} (h : b.closed s.phase = false) (ha : a < s.bufferSize b) (byte : Byte) :
    hostAct (.store b a byte) s = .next (s.storeBuffer b a byte) := if_neg (by simp [h, ha])

theorem hostAct_storeSec {a : Nat} (h1 : 0x010 ≤ a) (h2 : a ≤ 0x92B) (byte : Byte) :
    hostAct (.storeSec a byte) s = .next (s.putSec a [byte]) := if_pos (by simp [hostSecAddr, h1, h2])

/-- The writes the rules refuse (R332, U13; log 34). -/
theorem hostAct_refused {m : HostMove} (h : (midStream s.phase = true ∧ ((∃ xs, m = .pcm xs) ∨
      (∃ bytes, m = .buffer .rgba bytes ∨ m = .buffer .iso bytes) ∨
      ∃ a byte, m = .store .rgba a byte ∨ m = .store .iso a byte)) ∨
    (∃ b a byte, m = .store b a byte ∧ s.bufferSize b ≤ a) ∨
    ∃ a byte, m = .storeSec a byte ∧ (a < 0x010 ∨ 0x92B < a)) : hostAct m s = .refused (.hostWrite m) := by
  rcases h with ⟨hp, ⟨xs, rfl⟩ | ⟨bytes, rfl | rfl⟩ | ⟨a, byte, rfl | rfl⟩⟩ | ⟨b, a, byte, rfl, ha⟩ | ⟨a, byte, rfl, ha⟩
  · exact if_pos hp
  · exact if_pos hp
  · exact if_pos hp
  · exact if_pos (by simp [HostBuffer.closed, hp])
  · exact if_pos (by simp [HostBuffer.closed, hp])
  · exact if_pos (by simp [ha])
  · exact if_neg (by simp [hostSecAddr]; omega)

end

/-- A field of `w` bits after a write (R40; log 45). -/
theorem fitted_spec {w : Nat} (free : Nat → BitVec w) (v : Nat) :
    fitted free v ≤ 2 ^ w - 1 ∧ (v ≤ 2 ^ w - 1 → fitted free v = v) := by
  have bound := fitted_lt free v
  have pos := Nat.two_pow_pos w
  exact ⟨by omega, fun h => fitted_of_lt free (by omega)⟩

/-- Settles O10: each host action against the one condition that lets it through. -/
theorem hostWritesOnlyWhereAllowed : Obligations.HostWritesOnlyWhereAllowed := by
  intro s rest run answer u streaming
  have closed (h : ¬ streaming) : midStream s.phase = false :=
    Bool.eq_false_iff.2 fun hp => h ((midStream_iff s.phase).1 hp)
  refine ⟨fun hp => ?_, fun hp w => hostAct_setting_refused (s := u) hp w, fun hp => ⟨fun xs => ?_, fun bytes => ⟨?_, ?_⟩,
    fun a byte => ⟨fun ha => ?_, fun ha => ?_⟩⟩, fun bytes => ?_, fun a byte => ⟨fun ha => ?_, fun h1 h2 => ?_⟩, fun m hm => ?_⟩
  · have field := fun w => hostAct_setting (s := u) hp w
    exact ⟨fun v => field _, fun v => field _, fun v => field _, fun v => field _,
      fun v => ⟨_, (fitted_spec (w := 8) _ v).1, (fitted_spec (w := 8) _ v).2, field _⟩,
      fun v => ⟨_, (fitted_spec (w := 8) _ v).1, (fitted_spec (w := 8) _ v).2, field _⟩, fun v => field _, fun v => field _,
      fun v => ⟨_, (fitted_spec (w := 1) _ v).1, (fitted_spec (w := 1) _ v).2, field _⟩, fun v => field _, fun v => field _⟩
  · exact hostAct_pcm (s := u) (closed hp) xs
  · exact ⟨_, hostAct_buffer (s := u) (b := .rgba) (closed hp) bytes, rfl, rfl, fun a ha => Memory.read_filled ha _⟩
  · exact ⟨_, hostAct_buffer (s := u) (b := .iso) (closed hp) bytes, rfl, rfl, fun a ha => Memory.read_filled ha _⟩
  · refine ⟨_, hostAct_store (s := u) (b := .rgba) (closed hp) ha byte, rfl, rfl, fun i => ?_⟩
    refine (congrArg (Option.getD · _) (Memory.read_write s.rgba a byte i)).trans ?_
    exact apply_ite (Option.getD · (Config.freeRgbaByte i)) _ _ _
  · refine ⟨_, hostAct_store (s := u) (b := .iso) (closed hp) ha byte, rfl, rfl, fun i => ?_⟩
    refine (congrArg (Option.getD · _) (Memory.read_write s.iso a byte i)).trans ?_
    exact apply_ite (Option.getD · (Config.freeIsoByte i)) _ _ _
  · exact ⟨_, hostAct_buffer (s := u) (b := .data) rfl bytes, rfl, rfl, fun a _ => Memory.read_filledZ bytes a⟩
  · exact ⟨_, hostAct_store (s := u) (b := .data) rfl ha byte, rfl, Memory.writeZ_size _ _ _,
      fun i => Memory.read_writeZ s.data a byte i⟩
  · refine ⟨_, hostAct_storeSec (s := u) h1 h2 byte, rfl, rfl, fun i => ?_⟩
    rw [State.secByte_putSec, List.length_singleton]
    by_cases hi : i = a
    · rw [if_pos (by omega), if_pos hi, hi, Nat.sub_self]
      rfl
    · rw [if_neg (by omega), if_neg hi]
      rfl
  · refine hostAct_refused (s := u) ?_
    rcases hm with ⟨hp, hm⟩ | ⟨a, byte, rfl, ha⟩ | ⟨a, byte, rfl, ha⟩ | ⟨a, byte, rfl, ha⟩ | hm
    · exact .inl ⟨(midStream_iff s.phase).2 hp, hm⟩
    · exact .inr (.inl ⟨.rgba, a, byte, rfl, ha⟩)
    · exact .inr (.inl ⟨.iso, a, byte, rfl, ha⟩)
    · exact .inr (.inl ⟨.data, a, byte, rfl, ha⟩)
    · exact .inr (.inr hm)

end Sys2Proof.Machine
end

section
/-! SUPPORT. A whole frame (spec/42_dct_video.md R218, R219): O35. -/

namespace Sys2Proof.Machine

/-- Room up to the seven chunks of a frame (R11, R30). -/
theorem roomFor_of_le {n : Nat} (h : n ≤ 112911) : RoomFor n := fun cap hcap => by
  have room := State.room_of_le (s := State.reset) (n := 14112) (show 0 + 14112 ≤ 14112 by decide) cap hcap
  have out : State.reset.out.length = 0 := rfl
  omega

/-! ## The macroblocks (R192, R219) -/

/-- Each macroblock of VD_MB_ORDER lies in the frame. -/
theorem openMbOrder_inside {mbw mbh : Nat} (hw : 0 < mbw) (hh : 0 < mbh) (m : Nat) :
    (Config.hw.mbOrder mbw mbh m).1 < mbw ∧ (Config.hw.mbOrder mbw mbh m).2 < mbh := by
  have inside : ∀ r : Nat → Nat → Prop, ∀ _ : DecidableRel r,
      ((List.range (mbw * mbh)).insertionSort r).getD m 0 < mbw * mbh := by
    intro r _
    rw [List.getD_eq_getElem?_getD]
    cases e : ((List.range (mbw * mbh)).insertionSort r)[m]? with
    | none => exact Nat.mul_pos hw hh
    | some g => exact List.mem_range.1 ((List.mem_insertionSort r).1 (List.mem_of_getElem? e))
  exact ⟨Nat.mod_lt _ hw, (Nat.div_lt_iff_lt_mul hw).2 (Nat.mul_comm mbw mbh ▸ inside _ _)⟩

/-- The six blocks of macroblock `m` of frame `n`, in the order of VD_MB_ORDER (R192, R193). -/
def State.frameMacroblock (s : State) (n m : Nat) : List Block :=
  let p := Config.hw.mbOrder (macroblocks s.cfg.width.val) (macroblocks s.cfg.height.val) m
  macroblock Config.hw s s.cfg.width.val s.cfg.height.val n p.1 p.2

/-- Block `b` of macroblock `m` of frame `n`, quantised (R198, R202). -/
def State.frameBlock (s : State) (n m b : Nat) : QBlock :=
  quantBlock Config.hw (dctBlock Config.hw ((s.frameMacroblock n m).getD b []))

theorem State.lookup_frameBlocks (s : State) (n : Nat) {key : Nat}
    (h : key < 6 * nmb s.cfg.width.val s.cfg.height.val) :
    Store.lookup (s.frameBlocks n) key = some (s.frameBlock n (key / 6) (key % 6)) := by
  rw [State.frameBlocks, Store.lookup_indexed, if_pos (Nat.zero_le key), Nat.sub_zero, List.getElem?_map,
    List.getElem?_range h]
  rfl

/-- The blocks of frame `n` below index `count` stand in `FB`; only `MB` and `FB` are others. -/
structure State.Quantised (s t : State) (n count : Nat) : Prop where
  frame : t = { s with mb := t.mb, fb := t.fb }
  blocks : ∀ m b, b < 6 → 6 * m + b < count → Store.lookup t.fb (6 * m + b) = some (s.frameBlock n m b)

/-- The blocks of macroblock `m` from `b` on stand in `MB`, not yet transformed. -/
structure State.InMacroblock (s t : State) (n m b : Nat) : Prop where
  quantised : s.Quantised t n (6 * m + b)
  written : t.mb.written = true
  length : t.mb.val.length = 6
  rest : ∀ j, b ≤ j → t.mb.val.getD j [] = (s.frameMacroblock n m).getD j []

/-- Block `b` of `MB` transformed (R198). -/
def State.dctDone (t : State) (b : Nat) : State :=
  { t with mb := .put (t.mb.val.set b (dctBlock Config.hw (t.mb.val.getD b []))) }

/-- And quantised into `FB` (R202). -/
def State.blockDone (t : State) (m b : Nat) : State :=
  { t.dctDone b with
    fb := Store.put t.fb (blockKey m b) (quantBlock Config.hw (dctBlock Config.hw (t.mb.val.getD b []))) }

theorem dctQuant_runs {t : State} {m b : Nat} (hf : t.fault = false) (hw : t.cfg.width.written = true)
    (hh : t.cfg.height.written = true) (hb : b < 6) (hm : m < nmb t.cfg.width.val t.cfg.height.val)
    (written : t.mb.written = true) (length : t.mb.val.length = 6) :
    andThen (vdDct Config.hw b t) (vdQuant Config.hw b m) = .next (t.blockDone m b) := by
  have transformed : (t.dctDone b).mb.val.getD b [] = dctBlock Config.hw (t.mb.val.getD b []) := by
    show (t.mb.val.set b _).getD b [] = _
    rw [List.getD_eq_getElem?_getD, List.getElem?_set_self (by omega), Option.getD_some]
  rw [vdDct_of_le Config.hw (Nat.le_of_lt_succ hb) written]
  refine (andThen_next_ok (s := t.dctDone b) hf _).trans ?_
  rw [vdQuant_of_inside Config.hw (s := t.dctDone b) hw hh (Nat.le_of_lt_succ hb) hm rfl, transformed]
  rfl

section
variable {s : State} {n m : Nat} (hw : s.cfg.width.written = true) (hh : s.cfg.height.written = true)
  (hf : s.fault = false)

theorem State.InMacroblock.blockDone {t : State} {b : Nat} (hb : b < 6) (h : s.InMacroblock t n m b) :
    s.InMacroblock (t.blockDone m b) n m (b + 1) := by
  obtain ⟨⟨frame, blocks⟩, written, length, rest⟩ := h
  refine ⟨⟨?_, fun m' b' hb' hkey => ?_⟩, rfl, (List.length_set ..).trans length, fun j hj => ?_⟩
  · show t.blockDone m b = { s with mb := (t.blockDone m b).mb, fb := (t.blockDone m b).fb }
    rw [State.blockDone, State.dctDone, frame]
  · show Store.lookup (Store.put t.fb (6 * m + b) _) (6 * m' + b') = _
    by_cases here : 6 * m' + b' = 6 * m + b
    · obtain ⟨rfl, rfl⟩ : m' = m ∧ b' = b := by omega
      rw [Store.lookup_put_self, rest b' le_rfl]
      rfl
    · rw [Store.lookup_put_other _ _ _ _ here, blocks m' b' hb' (by omega)]
  · show (t.mb.val.set b _).getD j [] = _
    rw [List.getD_eq_getElem?_getD, List.getElem?_set_ne (by omega), ← List.getD_eq_getElem?_getD, rest j (by omega)]

include hw hh hf

theorem encodeBlocks_run {t : State} (hm : m < nmb s.cfg.width.val s.cfg.height.val) (h : s.InMacroblock t n m 0) :
    ∃ u, encodeBlocks Config.hw m t = .next u ∧ u.fault = false ∧ s.InMacroblock u n m 6 := by
  have start : t.fault = false := by rw [h.quantised.frame]; exact hf
  refine forEach_range_runs (P := fun b x => s.InMacroblock x n m b) 6 (fun b x hb hx => ?_) t start h
  have frame := hx.quantised.frame
  have cfg : x.cfg = s.cfg := by rw [frame]
  have fault : x.fault = false := by rw [frame]; exact hf
  exact ⟨x.blockDone m b, dctQuant_runs fault (by rw [cfg]; exact hw) (by rw [cfg]; exact hh) hb (by rw [cfg]; exact hm)
    hx.written hx.length, fault, hx.blockDone hb⟩

theorem vdCsc_inMacroblock {t : State} (hpos : 0 < macroblocks s.cfg.width.val ∧ 0 < macroblocks s.cfg.height.val)
    (hn : frameEnd s.cfg.width.val s.cfg.height.val n ≤ s.rgba.size) (h : s.Quantised t n (6 * m)) :
    let p := Config.hw.mbOrder (macroblocks s.cfg.width.val) (macroblocks s.cfg.height.val) m
    ∃ u, vdCsc Config.hw n p.1 p.2 t = .next u ∧ u.fault = false ∧ s.InMacroblock u n m 0 := by
  intro p
  obtain ⟨hx, hy⟩ := openMbOrder_inside hpos.1 hpos.2 m
  obtain ⟨frame, blocks⟩ := h
  have cfg : t.cfg = s.cfg := by rw [frame]
  have rgba : t.rgba = s.rgba := by rw [frame]
  have six : macroblock Config.hw t t.cfg.width.val t.cfg.height.val n p.1 p.2 = s.frameMacroblock n m := by
    rw [frame]
    rfl
  refine ⟨{ t with mb := .put (s.frameMacroblock n m) }, ?_, by rw [frame]; exact hf,
    ⟨by rw [frame], blocks⟩, rfl, rfl, fun j _ => rfl⟩
  rw [vdCsc_of_inside Config.hw (by rw [cfg]; exact hw) (by rw [cfg]; exact hh) (by rw [cfg]; exact hx)
    (by rw [cfg]; exact hy) (by rw [cfg, rgba]; exact hn), six]

theorem encodeMacroblocks_run (hpos : 0 < macroblocks s.cfg.width.val ∧ 0 < macroblocks s.cfg.height.val)
    (hn : frameEnd s.cfg.width.val s.cfg.height.val n ≤ s.rgba.size) :
    ∃ t, encodeMacroblocks Config.hw n s.cfg.width.val s.cfg.height.val s = .next t ∧ t.fault = false ∧
      s.Quantised t n (6 * nmb s.cfg.width.val s.cfg.height.val) := by
  refine forEach_range_runs (P := fun m t => s.Quantised t n (6 * m)) _ (fun m t hm ht => ?_) s hf
    ⟨rfl, fun m b _ h => absurd h (Nat.not_lt_zero _)⟩
  obtain ⟨u, csc, fault, hu⟩ := vdCsc_inMacroblock hw hh hf hpos hn ht
  obtain ⟨v, run, vfault, hv⟩ := encodeBlocks_run hw hh hf hm hu
  exact ⟨v, (congrArg (andThen · _) csc).trans ((andThen_next_ok fault _).trans run), vfault, hv.quantised⟩

end

/-! ## VD.RATE on the frame (R206) -/

/-- The frame after the rate control: `FBC` holds the cut copies of the frame's blocks. -/
structure State.Rated (s t : State) (n : Nat) : Prop where
  frame : t = { s with mb := t.mb, fb := t.fb, fbc := t.fbc }
  blocks : ∀ key, key < 6 * nmb s.cfg.width.val s.cfg.height.val →
    Store.lookup t.fb key = Store.lookup (s.frameBlocks n) key
  copies : ∀ key, key < 6 * nmb s.cfg.width.val s.cfg.height.val → Store.lookup t.fbc key = some (cutCopy (s.frameBlocks n)
    (rateIteration (s.frameBlocks n) (nmb s.cfg.width.val s.cfg.height.val)) key)

theorem snapshot_congr {f g : Store QBlock} {n : Nat} (h : ∀ key, key < 6 * n → Store.lookup f key = Store.lookup g key) :
    snapshot f n = snapshot g n := List.map_congr_left fun key hkey => by rw [h key (List.mem_range.1 hkey)]

theorem cutCopy_congr {f g : Store QBlock} {key : Nat} (h : Store.lookup f key = Store.lookup g key) (t : Nat) :
    cutCopy f t key = cutCopy g t key := by rw [cutCopy, cutCopy, h]

theorem State.Quantised.rate {s t : State} {n : Nat} (hw : s.cfg.width.written = true)
    (hh : s.cfg.height.written = true) (h : s.Quantised t n (6 * nmb s.cfg.width.val s.cfg.height.val)) :
    ∃ u, vdRate Config.hw t = .next u ∧ s.Rated u n := by
  obtain ⟨frame, blocks⟩ := h
  have cfg : t.cfg = s.cfg := by rw [frame]
  have same : ∀ key, key < 6 * nmb s.cfg.width.val s.cfg.height.val →
      Store.lookup t.fb key = Store.lookup (s.frameBlocks n) key := fun key hkey => by
    rw [s.lookup_frameBlocks n hkey, ← blocks (key / 6) (key % 6) (Nat.mod_lt _ (by decide)) (by omega), Nat.div_add_mod]
  have written : snapshotWritten t.fb (nmb s.cfg.width.val s.cfg.height.val) = true :=
    List.all_eq_true.2 fun key hkey => by
      rw [same key (List.mem_range.1 hkey), s.lookup_frameBlocks n (List.mem_range.1 hkey)]
      rfl
  have iteration : rateIteration t.fb (nmb s.cfg.width.val s.cfg.height.val) =
      rateIteration (s.frameBlocks n) (nmb s.cfg.width.val s.cfg.height.val) := by
    rw [rateIteration, rateIteration, snapshot_congr same]
  refine ⟨{ t with fbc := Store.putList t.fbc 0 (rateResult Config.hw t) }, ?_, ?_, same, fun key hkey => ?_⟩
  · rw [vdRate, needSize_written (by rw [cfg]; exact hw) (by rw [cfg]; exact hh), cfg, if_pos written, rateResult, cfg]
  · rw [frame]
  · refine (congrArg (fun l => Store.lookup (Store.putList t.fbc 0 l) key) (rateResult_eq t)).trans ?_
    rw [cfg, lookup_putList_range, if_pos hkey, iteration, cutCopy_congr (same key hkey)]

/-! ## Packing the frame (R211, R212, R219) -/

/-- The block at an index of `FBC`, none written read as no block. -/
def blockAt (fbc : Store QBlock) (key : Nat) : QBlock := (Store.lookup fbc key).getD []

/-- The bits of the packed blocks below an index. -/
def bitsBelow (fbc : Store QBlock) (count : Nat) : List Bool :=
  (List.range count).flatMap fun key => blockBits (blockAt fbc key)

/-- The words those blocks count, each block rounded up to a multiple of 16. -/
def wordsBelow (fbc : Store QBlock) (count : Nat) : Nat :=
  ((List.range count).map fun key => (2 + nonzeroAc (blockAt fbc key) + 15) / 16 * 16).sum

section
variable (fbc : Store QBlock)

theorem bitsBelow_succ (count : Nat) : bitsBelow fbc (count + 1) = bitsBelow fbc count ++ blockBits (blockAt fbc count) := by
  rw [bitsBelow, List.range_succ, List.flatMap_append, List.flatMap_singleton]
  rfl

theorem wordsBelow_succ (count : Nat) :
    wordsBelow fbc (count + 1) = wordsBelow fbc count + (2 + nonzeroAc (blockAt fbc count) + 15) / 16 * 16 := by
  rw [wordsBelow, List.range_succ, List.map_append, List.sum_append, List.map_singleton, List.sum_singleton]
  rfl

theorem wordsBelow_mod (count : Nat) : wordsBelow fbc count % 16 = 0 := by
  induction count with
  | zero => rfl
  | succ count ih => rw [wordsBelow_succ]; omega

theorem bitsBelow_length_mono {a b : Nat} (h : a ≤ b) : (bitsBelow fbc a).length ≤ (bitsBelow fbc b).length := by
  induction h with
  | refl => exact le_rfl
  | step _ ih => rw [bitsBelow_succ, List.length_append]; exact ih.trans (Nat.le_add_right _ _)

theorem bitsBelow_length (count : Nat) : (bitsBelow fbc count).length =
    12 * count + 22 * ((List.range count).map fun key => nonzeroAc (blockAt fbc key)).sum := by
  induction count with
  | zero => rfl
  | succ count ih =>
    rw [bitsBelow_succ, List.length_append, ih, blockBits_length, List.range_succ, List.map_append, List.sum_append,
      List.map_singleton, List.sum_singleton]
    omega

end

theorem nonzeroAc_le (q : QBlock) : nonzeroAc q ≤ 63 :=
  (List.monotone_filter_right (List.range 64) (q := fun k => decide (0 < k)) fun k h => by
    rw [Bool.and_eq_true] at h
    exact h.1).length_le

/-- The first `count` blocks of `FBC` are packed behind the stream of `s`. -/
structure State.Packed (s t : State) (count : Nat) : Prop where
  appended : Appended s t (bitsBelow s.fbc count)
  words : t.fcWords = wordsBelow s.fbc count

section
variable {s : State} (hw : s.cfg.width.written = true) (hh : s.cfg.height.written = true) (hf : s.fault = false)
  (hempty : s.bits = []) (hcopied : ∀ key, key < 6 * nmb s.cfg.width.val s.cfg.height.val →
    (Store.lookup s.fbc key).isSome = true)
  (hroom : RoomFor (bitsBelow s.fbc (6 * nmb s.cfg.width.val s.cfg.height.val)).length)
include hw hh hf hempty hcopied hroom

theorem State.Packed.step {t : State} {m b : Nat} (hb : b < 6) (hm : m < nmb s.cfg.width.val s.cfg.height.val)
    (h : s.Packed t (6 * m + b)) :
    ∃ u, vdPack Config.hw m b t = .next u ∧ u.fault = false ∧ s.Packed u (6 * m + (b + 1)) := by
  obtain ⟨appended, words⟩ := h
  have cfg : t.cfg = s.cfg := by rw [appended.frame]
  have fbc : t.fbc = s.fbc := by rw [appended.frame]
  have fault := appended.fault.trans hf
  obtain ⟨q, hq⟩ := Option.isSome_iff_exists.1 (hcopied (6 * m + b) (by omega))
  have block : blockAt s.fbc (6 * m + b) = q := by rw [blockAt, hq, Option.getD_some]
  have more := bitsBelow_succ s.fbc (6 * m + b)
  have count := wordsBelow_succ s.fbc (6 * m + b)
  have aligned := wordsBelow_mod s.fbc (6 * m + b)
  rw [block] at more count
  have room : RoomFor (t.bits.length + (12 + 22 * nonzeroAc q)) := by
    refine hroom.mono ?_
    rw [appended.length, hempty, List.length_nil, Nat.zero_add, ← blockBits_length q, ← List.length_append, ← more]
    exact bitsBelow_length_mono _ (by omega)
  obtain ⟨u, hu, wu, su⟩ := vdPack_appends fault (by rw [cfg]; exact hw) (by rw [cfg]; exact hh) (Nat.le_of_lt_succ hb)
    (by rw [cfg]; exact hm) (by rw [fbc]; exact hq) appended.bw appended.out room
  have joined := appended.trans su
  rw [← more] at joined
  refine ⟨u, hu, su.fault.trans fault, joined, ?_⟩
  show u.fcWords = wordsBelow s.fbc (6 * m + b + 1)
  rw [wu, words, count]
  omega

theorem packBlocks_run (hbw : s.bwInv) (hout : s.outInv) (hwords : s.fcWords = 0) :
    ∃ t, packBlocks Config.hw s.cfg.width.val s.cfg.height.val s = .next t ∧ t.fault = false ∧
      s.Packed t (6 * nmb s.cfg.width.val s.cfg.height.val) := by
  refine forEach_range_runs (P := fun m t => s.Packed t (6 * m)) _ (fun m t hm ht => ?_) s hf
    ⟨⟨(List.append_nil _).symm, hbw, hout, rfl⟩, hwords⟩
  exact forEach_range_runs (P := fun b t => s.Packed t (6 * m + b)) 6
    (fun b t hb ht => State.Packed.step hw hh hf hempty hcopied hroom hb hm ht) t (ht.appended.fault.trans hf) ht

end

/-! ## VD.FRAME (R218, R219) -/

/-- The bits of the packed frame, without the terminator, fit the seven chunks (R218). -/
def State.FrameRoom (s : State) (n : Nat) : Prop :=
  12 * (6 * nmb s.cfg.width.val s.cfg.height.val) + 22 * cutCount (s.frameBlocks n)
    (nmb s.cfg.width.val s.cfg.height.val) (rateIteration (s.frameBlocks n) (nmb s.cfg.width.val s.cfg.height.val)) + 12 ≤
      112896

/-- A frame of at most 13 macroblocks, or one that meets R218's condition, has the room. -/
theorem State.frameRoom_of {s : State} {n : Nat}
    (h : nmb s.cfg.width.val s.cfg.height.val ≤ 13 ∨ s.frameFits n) : s.FrameRoom n := by
  obtain ⟨within, exceeds⟩ := rateIteration_first (s.frameBlocks n) (nmb s.cfg.width.val s.cfg.height.val)
  rcases h with small | ⟨t, fits, before, room⟩
  · have most : cutCount (s.frameBlocks n) (nmb s.cfg.width.val s.cfg.height.val) (rateIteration (s.frameBlocks n)
        (nmb s.cfg.width.val s.cfg.height.val)) ≤ 63 * (6 * nmb s.cfg.width.val s.cfg.height.val) := by
      rw [cutCount_eq_sum_nonzeroAc]
      refine (List.sum_le_card_nsmul _ 63 fun a ha => ?_).trans (by simp [Nat.mul_comm])
      obtain ⟨key, -, rfl⟩ := List.mem_map.1 ha
      exact nonzeroAc_le _
    unfold State.FrameRoom
    omega
  · have first : rateIteration (s.frameBlocks n) (nmb s.cfg.width.val s.cfg.height.val) = t := by
      rcases Nat.lt_trichotomy (rateIteration (s.frameBlocks n) (nmb s.cfg.width.val s.cfg.height.val)) t with h | h | h
      · exact absurd within (not_le.2 (before _ h))
      · exact h
      · exact absurd fits (not_le.2 (exceeds _ h))
    unfold State.FrameRoom
    rw [first]
    omega

/-- What VD.FRAME leaves of frame `n`. -/
structure State.FrameDone (s t : State) (n : Nat) : Prop where
  frame : t = { s with mb := t.mb, fb := t.fb, fbc := t.fbc, bwAcc := t.bwAcc, bwLeft := t.bwLeft, out := t.out,
                       fcWords := t.fcWords, dmx := t.dmx, fcFrameIndex := s.fcFrameIndex + 1 }
  blocks : ∀ key, key < 6 * nmb s.cfg.width.val s.cfg.height.val →
    Store.lookup t.fb key = Store.lookup (s.frameBlocks n) key
  copies : ∀ key, key < 6 * nmb s.cfg.width.val s.cfg.height.val → Store.lookup t.fbc key = some (cutCopy (s.frameBlocks n)
    (rateIteration (s.frameBlocks n) (nmb s.cfg.width.val s.cfg.height.val)) key)
  empty : t.bwAcc = 0 ∧ t.bwLeft = 16
  out : t.outInv
  bits : ∃ pad, pad < 16 ∧ t.bits = bitsBelow t.fbc (6 * nmb s.cfg.width.val s.cfg.height.val) ++
    (fieldBits 10 0x1FF ++ fieldBits 2 0b10 ++ List.replicate pad false)
  fits : t.out.length ≤ 14112
  words : t.fcWords = wordsBelow t.fbc (6 * nmb s.cfg.width.val s.cfg.height.val) + 16
  slots : ∀ j i, j < 7 → i < 2048 → t.dmxByte (2048 * j + i) =
    (chunkHeader Config.hw { t with fcFrameIndex := s.fcFrameIndex } s.cfg.width.val s.cfg.height.val j ++
      chunkPayload Config.hw t.out j).getD i 0

/-- The state in which the blocks of frame `n` are about to be packed. -/
structure State.PackReady (s t : State) (n : Nat) : Prop where
  frame : t = { s with mb := t.mb, fb := t.fb, fbc := t.fbc, bwAcc := 0, bwLeft := 16, out := [], fcWords := 0 }
  blocks : ∀ key, key < 6 * nmb s.cfg.width.val s.cfg.height.val →
    Store.lookup t.fb key = Store.lookup (s.frameBlocks n) key
  copies : ∀ key, key < 6 * nmb s.cfg.width.val s.cfg.height.val → Store.lookup t.fbc key = some (cutCopy (s.frameBlocks n)
    (rateIteration (s.frameBlocks n) (nmb s.cfg.width.val s.cfg.height.val)) key)

/-- The length of the packed frame (R114, R211). -/
theorem State.PackReady.length {s t : State} {n : Nat} (h : s.PackReady t n) :
    (bitsBelow t.fbc (6 * nmb s.cfg.width.val s.cfg.height.val)).length =
      12 * (6 * nmb s.cfg.width.val s.cfg.height.val) + 22 * cutCount (s.frameBlocks n)
        (nmb s.cfg.width.val s.cfg.height.val)
        (rateIteration (s.frameBlocks n) (nmb s.cfg.width.val s.cfg.height.val)) := by
  rw [bitsBelow_length, cutCount_eq_sum_nonzeroAc]
  refine congrArg (12 * _ + 22 * List.sum ·) (List.map_congr_left fun key hkey => ?_)
  rw [blockAt, h.copies key (List.mem_range.1 hkey), Option.getD_some]

theorem packFrame_runs {s t : State} {n : Nat} (hf : s.fault = false) (hw : s.cfg.width.written = true)
    (hh : s.cfg.height.written = true) (hroom : s.FrameRoom n) (h : s.PackReady t n) :
    ∃ u v w, packBlocks Config.hw s.cfg.width.val s.cfg.height.val t = .next u ∧ u.fault = false ∧
      vdEnd Config.hw u = .next v ∧ v.fault = false ∧ vdDemux Config.hw v = .next w ∧ w.fault = false ∧
      s.FrameDone w n := by
  have length := h.length
  obtain ⟨frame, blocks, copies⟩ := h
  unfold State.FrameRoom at hroom
  have cfg : t.cfg = s.cfg := by rw [frame]
  have fault : t.fault = false := by rw [frame]; exact hf
  have empty : t.bits = [] := by rw [frame]; rfl
  obtain ⟨u, run1, fault1, packed⟩ := packBlocks_run (s := t) (by rw [cfg]; exact hw) (by rw [cfg]; exact hh) fault empty
    (by rw [cfg]; exact fun key hkey => by rw [copies key hkey]; rfl)
    (by rw [cfg, length]; exact roomFor_of_le (by omega))
    (by rw [frame]; exact ⟨le_rfl, rfl⟩) (by rw [frame]; rfl) (by rw [frame])
  rw [cfg] at run1 packed
  obtain ⟨appended, words⟩ := packed
  have stream := appended.length
  rw [empty, List.length_nil, Nat.zero_add, length] at stream
  obtain ⟨v, pad, run2, hpad, acc, left, count, ended⟩ := vdEnd_appends fault1 appended.bw appended.out
    (roomFor_of_le (by omega))
  have fault2 : v.fault = false := ended.fault.trans fault1
  have joined := appended.trans ended
  have fb : v.fb = t.fb := by rw [joined.frame]
  have fbc : v.fbc = t.fbc := by rw [joined.frame]
  have bits := joined.bits
  rw [empty, List.nil_append] at bits
  have total := State.bits_length ended.out
  have even : v.out.length % 2 = 0 := ended.out
  have tail : v.bits.length = u.bits.length + (10 + 2 + pad) := by
    rw [ended.length, List.length_append, List.length_append, fieldBits_length, fieldBits_length, List.length_replicate]
  have fits : v.out.length ≤ 14112 := by omega
  have aligned := wordsBelow_mod t.fbc (6 * nmb s.cfg.width.val s.cfg.height.val)
  have cfg2 : v.cfg = s.cfg := by rw [joined.frame]; exact cfg
  have index : v.fcFrameIndex = s.fcFrameIndex := by rw [joined.frame, frame]
  refine ⟨u, v, v.demuxed, run1, fault1, run2, fault2,
    vdDemux_of_fits (by rw [cfg2]; exact hw) (by rw [cfg2]; exact hh) fits, fault2, ?_, ?_, ?_, ⟨acc, left⟩, ended.out,
    ⟨pad, hpad, ?_⟩, fits, ?_, fun j i hj hi => ?_⟩
  · show { v with dmx := v.demuxed.dmx, fcFrameIndex := v.fcFrameIndex + 1 } = _
    rw [index, joined.frame, frame]
    rfl
  · exact fun key hkey => (congrArg (Store.lookup · key) fb).trans (blocks key hkey)
  · exact fun key hkey => (congrArg (Store.lookup · key) fbc).trans (copies key hkey)
  · exact bits.trans (by rw [← fbc]; rfl)
  · show v.fcWords = wordsBelow v.fbc _ + 16
    rw [count, words, fbc]
    omega
  · have header : chunkHeader Config.hw v s.cfg.width.val s.cfg.height.val j = chunkHeader Config.hw
        { v.demuxed with fcFrameIndex := s.fcFrameIndex } s.cfg.width.val s.cfg.height.val j := by
      rw [← index]
      rfl
    rw [v.dmxByte_demuxed hj hi, cfg2, header]
    rfl

theorem vdFrame_runs {s : State} {n : Nat} (hf : s.fault = false) (hw : s.cfg.width.written = true)
    (hh : s.cfg.height.written = true) (hwidth : 0 < s.cfg.width.val ∧ s.cfg.width.val % 16 = 0)
    (hheight : 0 < s.cfg.height.val ∧ s.cfg.height.val % 16 = 0) (hroom : s.FrameRoom n)
    (hn : frameEnd s.cfg.width.val s.cfg.height.val n ≤ s.rgba.size) :
    ∃ t, vdFrame Config.hw n s = .next t ∧ t.fault = false ∧ s.FrameDone t n := by
  have begun : vdBegin Config.hw s = .next (s.beginFrame Config.hw) := by
    rw [vdBegin_written Config.hw hw hh, if_neg (by omega), if_neg (by omega)]
  have positive : 0 < macroblocks s.cfg.width.val ∧ 0 < macroblocks s.cfg.height.val := by
    unfold macroblocks
    omega
  obtain ⟨t, run1, fault1, quantised⟩ := encodeMacroblocks_run (s := s.beginFrame Config.hw) hw hh hf positive hn
  obtain ⟨u, run2, frame, blocks, copies⟩ := State.Quantised.rate (s := s.beginFrame Config.hw) hw hh quantised
  have fault2 : u.fault = false := by rw [frame]; exact hf
  have cfg : (s.beginFrame Config.hw).cfg = s.cfg := rfl
  rw [cfg] at run1
  obtain ⟨v, w, x, run3, fault3, run4, fault4, run5, fault5, done⟩ := packFrame_runs hf hw hh hroom ⟨frame, blocks, copies⟩
  refine ⟨x, ?_, fault5, done⟩
  rw [vdFrame, begun]
  refine (andThen_next_ok (s := s.beginFrame Config.hw) hf _).trans ((needSize_written hw hh).trans ?_)
  rw [run1, andThen_next_ok fault1, run2, andThen_next_ok fault2, run3, andThen_next_ok fault3, run4,
    andThen_next_ok fault4, run5]

theorem exec_vdFrame (n : Nat) {s : State} (hf : s.fault = false) : exec (.vdFrame n) s = vdFrame Config.hw n s :=
  unlessFaulted_ok hf _

/-- Settles O35: one macroblock after another into `FB`, the rate control, one block after another into the stream, the
terminator and the demultiplexer. -/
theorem frameCompletesWhenItFits : Obligations.FrameCompletesWhenItFits := by
  intro s n hf hw hh w h nm hw0 hw16 hh0 hh16 hfits hn
  have room : s.FrameRoom n := State.frameRoom_of hfits
  obtain ⟨t, run, fault, done⟩ := vdFrame_runs hf hw hh ⟨hw0, hw16⟩ ⟨hh0, hh16⟩ room hn
  obtain ⟨pad, hpad, bits⟩ := done.bits
  obtain ⟨within, exceeds⟩ := rateIteration_first (s.frameBlocks n) nm
  have block : ∀ key, key < 6 * nm →
      blockAt t.fbc key = cutCopy (s.frameBlocks n) (rateIteration (s.frameBlocks n) nm) key := fun key hkey =>
    congrArg (Option.getD · []) (done.copies key hkey)
  have aligned := wordsBelow_mod t.fbc (6 * nm)
  refine ⟨t, rateIteration (s.frameBlocks n) nm, pad, (exec_vdFrame n hf).trans run, fault, done.empty.1, done.empty.2,
    done.out, done.fits, hpad, ?_, within, exceeds, fun key hkey => ⟨_, done.copies key hkey, cutCopy_length _ _ _,
      fun k hk => cutCopy_getD _ _ _ hk⟩, done.words, ?_, ?_, ?_, fun j i hj hi => ?_, done.blocks, ?_⟩
  · rw [bits, ← List.append_assoc, ← List.append_assoc]
    rfl
  · rw [done.words]
    exact (Nat.add_mod_right _ 16).trans aligned
  · rw [done.frame]
  · rw [cutCount_eq_sum_nonzeroAc] at within
    refine le_of_eq_of_le (congrArg List.sum (List.map_congr_left fun key hkey => ?_)) within
    exact congrArg nonzeroAc (block key (List.mem_range.1 hkey))
  · rw [Nat.add_assoc, done.slots j (32 + i) hj (by omega), List.getD_eq_getElem?_getD,
      List.getElem?_append_right (by rw [chunkHeader_length]; omega), chunkHeader_length, Nat.add_sub_cancel_left,
      ← List.getD_eq_getElem?_getD, chunkPayload_getD _ _ hi]
  · rw [done.frame]

end Sys2Proof.Machine
end

section
/-! SUPPORT. The SPU streams (spec/44_stream_sequencing.md R289 to R292): the chunk loop, one SPU block, the VAG header:
O48, O49. -/

namespace Sys2Proof.Machine

/-! ## The chunk loop (R281) -/

/-- A chunk loop whose every chunk runs clean runs clean, and a property that a change of phase keeps carries through. -/
theorem chunkLoop_runs {P : Nat → State → Prop} {body : Nat → State → Result} (n : Nat)
    (hphase : ∀ i t p, P i t → P i (t.setPhase p))
    (hbody : ∀ i t, i < n → t.fault = false → P i t → ∃ u, body i t = .next u ∧ u.fault = false ∧ P (i + 1) u)
    (s : State) (h0 : s.fault = false) (hs : P 0 s) :
    ∃ t, chunkLoop n body s = .next t ∧ t.fault = false ∧ t.phase = .done ∧ P n t := by
  have finalize : ∀ i t last, P i t → P i (t.finalizeAt last) := fun i t last h => by
    cases last
    · exact h
    · exact hphase i t _ h
  have clean : ∀ t last, (State.finalizeAt t last).fault = t.fault := fun t last => by cases last <;> rfl
  obtain ⟨t, run, fault, -, ht⟩ := forEach_range_runs (P := fun i t => t.fault = false ∧ P i t) n
    (f := fun i t => body i (t.finalizeAt (i + 1 == n))) (fun i t hi ht => by
      obtain ⟨u, hu, fault, hp⟩ := hbody i (t.finalizeAt (i + 1 == n)) hi ((clean _ _).trans ht.1) (finalize _ _ _ ht.2)
      exact ⟨u, hu, fault, fault, hp⟩) s h0 ⟨h0, hs⟩
  refine ⟨t.setPhase .done, ?_, fault, rfl, hphase _ _ _ ht⟩
  rw [chunkLoop, run, andThen_next_ok fault]

/-! ## One SPU block (R102, R289) -/

theorem ceilDiv_of_pos {a b : Nat} (hb : 0 < b) : ceilDiv a b = (a + b - 1) / b := by
  rw [ceilDiv, if_neg (by omega : ¬ b = 0)]
  split
  · next h => rw [h, Nat.zero_add, Nat.div_eq_of_lt (by omega)]
  · rfl

/-- Two nibbles in a byte. -/
theorem nibblePair (a b : Byte) : (a &&& 0xF) ||| ((b &&& 0xF) <<< 4) = (b.setWidth 4 ++ a.setWidth 4 : BitVec 8) := by
  refine BitVec.eq_of_getLsbD_eq fun i hi => ?_
  have pair : (b.setWidth 4 ++ a.setWidth 4 : BitVec 8).getLsbD i =
      if i < 4 then (a.setWidth 4).getLsbD i else (b.setWidth 4).getLsbD (i - 4) := BitVec.getLsbD_append
  rw [pair]
  interval_cases i <;> simp

/-- AD.ENCODE into `SCR` touches the ADPCM registers and `SCR`, and keeps its size. -/
theorem encoded_scr_frame (s : State) (c base stride fc : Nat) :
    let u := s.encoded Config.hw .scr c base stride fc 0 0 1
    u = { s with ch := u.ch, cand := u.cand, best := u.best, adHdr := u.adHdr, adMse := u.adMse, adMin := u.adMin,
                 scr := u.scr } ∧ u.scr.size = s.scr.size := by
  obtain ⟨m, hm, size⟩ := putNibbles_eq_withTarget Config.hw s .scr 0 0 1
    (encodeBlock fc (s.channel c) (s.samples Config.hw base stride)).2.nib
  have commits := encoded_eq .scr s c base stride fc 0 0 1
  intro u
  constructor
  · rw [show u = _ from commits, hm]
    rfl
  · rw [show u = _ from commits, hm]
    exact size

/-- The 16 bytes MX.SPU emits after an AD.ENCODE (R102). -/
theorem spuBlock_encoded (s : State) (c base stride : Nat) {fc : Nat} (h1 : 1 ≤ fc) (flags : Byte) :
    let block := encodeBlock fc (s.channel c) (s.samples Config.hw base stride)
    spuBlock (s.encoded Config.hw .scr c base stride fc 0 0 1) flags = spuBytes block.1 block.2 flags := by
  intro block
  have header := encoded_header .scr s c base stride 0 0 1 h1
  have nibble : ∀ i, i < 28 → ((s.encoded Config.hw .scr c base stride fc 0 0 1).scrByte i).setWidth 4 =
      block.2.nib.getD i 0 := fun i hi => by
    have byte := encoded_targetByte (s := s) (c := c) (base := base) (stride := stride) (fc := fc) (dbase := 0) (ds := 0)
      (t := .scr) (dp := 1) le_rfl hi
    rw [Nat.zero_add, Nat.mul_one] at byte
    have lane := withNibble_lane (s.targetByte .scr i) (block.2.nib.getD i 0) (ds := 0) (.inl rfl)
    rw [← byte, BitVec.ushiftRight_zero] at lane
    exact lane
  rw [spuBlock, header, spuBytes]
  refine congrArg (fun l => _ :: _ :: l) (List.map_congr_left fun p hp => ?_)
  have hp := List.mem_range.1 hp
  rw [nibblePair, nibble _ (by omega), nibble _ (by omega)]

/-- What one SPU block changes: channel `k`, the ADPCM registers, `SCR`, and 16 bytes more in `SINK`. -/
structure State.SpuBlock (s t : State) (k : Nat) (xs : List Int) (flags : Byte) : Prop where
  frame : t = { s with ch := t.ch, cand := t.cand, best := t.best, adHdr := t.adHdr, adMse := t.adMse, adMin := t.adMin,
                       scr := t.scr, sink := t.sink }
  size : t.scr.size = s.scr.size
  channel : ∀ d, t.channel d = if d = k then nextChannel 5 (s.channel k) xs else s.channel d
  sink : t.sink = s.sink ++ spuBytes (encodeBlock 5 (s.channel k) xs).1 (encodeBlock 5 (s.channel k) xs).2 flags

theorem spuUnit_runs {s : State} {n k j : Nat} {flags : Bool → Byte} (hf : s.fault = false)
    (hw : s.cfg.channels.written = true) (hl : s.cfg.loop.written = true) (hk : k < s.cfg.channels.val) (hn : 1 ≤ n)
    (hsize : s.scr.size = 28) : ∃ t, spuUnit Config.hw n k j flags s = .next t ∧ t.fault = false ∧
      s.SpuBlock t k (s.samples Config.hw (28 * j * n + k) n) (flags (s.cfg.loop.val != 0)) := by
  obtain ⟨frame, size⟩ := encoded_scr_frame s k (28 * j * n + k) n 5
  have ran := adEncode_runs (c := Config.hw) hw_sizes (t := .scr) (ch := k) (base := 28 * j * n + k) (stride := n) (fc := 5)
    (dbase := 0) (ds := 0) (dp := 1) hw ⟨hk, hn, by decide, .inl rfl, le_rfl, fun i hi => by
      rw [Nat.zero_add, Nat.mul_one]
      exact lt_of_lt_of_eq hi hsize.symm⟩
  have bytes := spuBlock_encoded s k (28 * j * n + k) n (fc := 5) (by decide) (flags (s.cfg.loop.val != 0))
  have channel := encoded_channel .scr s k (28 * j * n + k) n 5 0 0 1
  obtain ⟨u, hu⟩ : ∃ u, u = s.encoded Config.hw .scr k (28 * j * n + k) n 5 0 0 1 := ⟨_, rfl⟩
  rw [← hu] at ran bytes channel frame size
  have fault : u.fault = false := by rw [frame]; exact hf
  have sink : u.sink = s.sink := by rw [frame]
  refine ⟨u.emit (spuBlock u (flags (s.cfg.loop.val != 0))), ?_, fault, ?_, size, channel, ?_⟩
  · rw [spuUnit, need_written hl, hw_nsamp, hw_fcSpu, ran, andThen_next_ok fault]
  · rw [State.emit, frame]
  · show u.sink ++ _ = _
    rw [sink, bytes]

theorem spuBytes_length (b : Best) (x : Cand) (flags : Byte) : (spuBytes b x flags).length = 16 := by
  simp [spuBytes]

theorem spuFlags_eq (first last loop : Bool) : spuFlags first last loop = BitVec.ofNat 8
    ((if (first && loop) = true then 4 else 0) + (if last = true then 1 else 0) +
      (if (last && loop) = true then 2 else 0)) := by
  revert first last loop
  decide

/-! ## The VAG header (R291) -/

theorem leField_eq_lowFirst {width value : Nat} (h : value < 256 ^ width) : leField width value = lowFirst width value :=
  List.map_congr_left fun _ _ => if_pos h

theorem beField_eq_highFirst {width value : Nat} (h : value < 256 ^ width) :
    beField width value = highFirst width value := by
  rw [beField, leField_eq_lowFirst h, lowFirst, highFirst, ← List.map_reverse]
  refine List.ext_getElem (by simp) fun i h1 h2 => ?_
  simp [List.getElem_reverse]

theorem vagHeader_spec (interleaved : Bool) (interleave dataLength frequency channels : Nat) :
    (vagHeader Config.hw interleaved interleave dataLength frequency channels).length = 48 ∧
      VagHeader (vagHeader Config.hw interleaved interleave dataLength frequency channels)
        (if interleaved then 0x69 else 0x70) (if interleaved then interleave else 0) dataLength frequency
        (if interleaved then channels else 0) := by
  have name : Config.hw.vagName.length = 16 := by
    show Config.openVagName.length = 16
    simp [Config.openVagName]
  refine ⟨by simp [vagHeader, beField, leField, name], rfl, ?_, fun h => ?_, fun h => ?_, fun h => ?_, rfl, fun h => ?_, ?_⟩
  · rfl
  · exact leField_eq_lowFirst (width := 4) h
  · exact beField_eq_highFirst (width := 4) h
  · exact beField_eq_highFirst (width := 4) h
  · exact leField_eq_lowFirst (width := 2) h
  · exact (List.take_of_length_le (le_of_eq name))

/-! ## A stream of blocks (R170, R289) -/

/-- The state of channel `k` of `ch` before its block `j`. -/
def State.channelAt (s : State) (fc ch k j : Nat) : Channel :=
  channelBefore fc (fun j => s.samples Config.hw (28 * j * ch + k) ch) j

theorem State.blockOf_eq (s : State) (fc ch k j : Nat) :
    s.blockOf fc ch k j = encodeBlock fc (s.channelAt fc ch k j) (s.samples Config.hw (28 * j * ch + k) ch) := rfl

theorem State.channelAt_succ (s : State) (fc ch k j : Nat) : s.channelAt fc ch k (j + 1) =
    nextChannel fc (s.channelAt fc ch k j) (s.samples Config.hw (28 * j * ch + k) ch) := rfl

/-- The 16 bytes of block `j` of channel `k` of `ch`. -/
def State.blockBytes (s : State) (ch k j : Nat) (flags : Byte) : List Byte :=
  spuBytes (s.blockOf 5 ch k j).1 (s.blockOf 5 ch k j).2 flags

/-- An SPU stream under way: the bytes `x` emitted, and `count d` blocks of channel `d` encoded. -/
structure State.SpuStream (s t : State) (x : List Byte) (count : Nat → Nat) : Prop where
  frame : t = { s with ch := t.ch, cand := t.cand, best := t.best, adHdr := t.adHdr, adMse := t.adMse, adMin := t.adMin,
                       scr := t.scr, sink := t.sink, phase := t.phase, fcFrameIndex := Config.hw.firstFrame }
  size : t.scr.size = 28
  sink : t.sink = s.sink ++ x
  channel : ∀ d, d < s.cfg.channels.val → t.channel d = s.channelAt 5 s.cfg.channels.val d (count d)

theorem State.SpuStream.setPhase {s t : State} {x : List Byte} {count : Nat → Nat} (h : s.SpuStream t x count)
    (p : Phase) : s.SpuStream (t.setPhase p) x count := by
  obtain ⟨frame, size, sink, channel⟩ := h
  refine ⟨?_, size, sink, channel⟩
  rw [State.setPhase, frame]

theorem State.Started.spuStream {s t : State} (h : s.Started t) (hsize : s.scr.size = 28) :
    s.SpuStream t [] fun _ => 0 := by
  obtain ⟨frame, zero⟩ := h
  refine ⟨?_, ?_, ?_, zero⟩
  · rw [frame]
  · rw [frame]
    exact hsize
  · rw [frame]
    exact (List.append_nil _).symm

theorem State.SpuStream.emit {s t : State} {x : List Byte} {count : Nat → Nat} (h : s.SpuStream t x count)
    (bs : List Byte) : s.SpuStream (t.emit bs) (x ++ bs) count := by
  obtain ⟨frame, size, sink, channel⟩ := h
  refine ⟨?_, size, ?_, channel⟩
  · rw [State.emit, frame]
  · rw [← List.append_assoc, ← sink]
    rfl

/-- One block more of channel `k`. -/
theorem State.SpuStream.block {s t : State} {x : List Byte} {count count' : Nat → Nat} {k : Nat}
    {flags : Bool → Byte} (h : s.SpuStream t x count) (hf : t.fault = false) (hw : s.cfg.channels.written = true)
    (hl : s.cfg.loop.written = true) (hk : k < s.cfg.channels.val) (hself : count' k = count k + 1)
    (hother : ∀ d, d < s.cfg.channels.val → d ≠ k → count' d = count d) :
    ∃ u, spuUnit Config.hw s.cfg.channels.val k (count k) flags t = .next u ∧ u.fault = false ∧
      s.SpuStream u (x ++ s.blockBytes s.cfg.channels.val k (count k) (flags (s.cfg.loop.val != 0))) count' := by
  obtain ⟨frame, size, sink, channel⟩ := h
  have cfg : t.cfg = s.cfg := by rw [frame]
  have pcm : t.pcm = s.pcm := by rw [frame]
  have samples : t.samples Config.hw (28 * count k * s.cfg.channels.val + k) s.cfg.channels.val =
      s.samples Config.hw (28 * count k * s.cfg.channels.val + k) s.cfg.channels.val := by
    unfold State.samples State.sample
    rw [pcm]
  obtain ⟨u, run, fault, block⟩ := spuUnit_runs (s := t) (n := s.cfg.channels.val) (k := k) (j := count k) (flags := flags)
    hf (by rw [cfg]; exact hw) (by rw [cfg]; exact hl) (by rw [cfg]; exact hk) (by omega) size
  rw [cfg, samples] at block
  refine ⟨u, run, fault, ?_, block.size.trans size, ?_, fun d hd => ?_⟩
  · rw [block.frame, frame]
  · rw [block.sink, sink, channel k hk, List.append_assoc]
    rfl
  · rw [block.channel]
    by_cases hdk : d = k
    · rw [if_pos hdk, hdk, hself, State.channelAt_succ, channel k hk]
    · rw [if_neg hdk, hother d hd hdk, channel d hd]

/-- The bytes of the blocks of a mono stream (R289). -/
theorem spuStream_eq_flatMap (samples : Nat → List Int) (flags : Nat → Byte) (n j : Nat) :
    spuStream samples flags n j (channelBefore 5 samples j) = (List.range n).flatMap fun i =>
      spuBytes (encodeBlock 5 (channelBefore 5 samples (j + i)) (samples (j + i))).1
        (encodeBlock 5 (channelBefore 5 samples (j + i)) (samples (j + i))).2 (flags (j + i)) := by
  induction n generalizing j with
  | zero => rfl
  | succ n ih =>
    have next := ih (j + 1)
    rw [List.range_succ_eq_map, List.flatMap_cons, List.flatMap_map, spuStream, Nat.add_zero]
    refine congrArg (_ ++ ·) (next.trans (List.flatMap_congr fun i _ => ?_))
    rw [Nat.succ_eq_add_one, Nat.add_right_comm j 1 i, Nat.add_assoc j i 1]

/-! ## MX.SPU (R289) -/

theorem samplesPerChannel_eq {s t : State} (hs : s.StreamReady) (hpcm : t.pcm = s.pcm) :
    samplesPerChannel t s.cfg.channels.val = s.pcm.length / s.cfg.channels.val := by
  rw [samplesPerChannel, hpcm, countDiv_of_pos hs.channels_pos]

/-- The flag byte of R292, for a loop flag of one bit. -/
theorem spuFlags_byte {p q : Prop} [Decidable p] [Decidable q] {loop : Nat} (hl : loop ≤ 1) :
    spuFlags (decide p) (decide q) (loop != 0) = BitVec.ofNat 8
      ((if p ∧ loop = 1 then 4 else 0) + (if q then 1 else 0) + (if q ∧ loop = 1 then 2 else 0)) := by
  have one : (loop != 0) = decide (loop = 1) := by
    obtain rfl | rfl : loop = 0 ∨ loop = 1 := by omega
    · rfl
    · rfl
  rw [spuFlags_eq, one]
  simp only [Bool.and_eq_true, decide_eq_true_eq]

/-- The loop flag of a stream of blocks is one bit (R322). -/
theorem State.StreamReady.loop_le {s : State} (hs : s.StreamReady) (h : s.cfg.loop.written = true) :
    s.cfg.loop.val ≤ 1 := (hs.valid 7 (by decide) (by decide)).2.2 h

/-- The flag byte of block `j` of a mono stream (R289). -/
def monoFlags (loop blocks j : Nat) : Byte := BitVec.ofNat 8
  ((if j = 0 ∧ loop = 1 then 4 else 0) + (if j + 1 = blocks then 1 else 0) + (if j + 1 = blocks ∧ loop = 1 then 2 else 0))

theorem spuFlags_eq_monoFlags {total j loop : Nat} (hl : loop ≤ 1) (hj : j < (total + 27) / 28) :
    spuFlags (j == 0) (decide (total ≤ 28 * (j + 1))) (loop != 0) = monoFlags loop ((total + 27) / 28) j := by
  have last : decide (total ≤ 28 * (j + 1)) = decide (j + 1 = (total + 27) / 28) := decide_eq_decide.2 (by omega)
  have first : (j == 0) = decide (j = 0) := rfl
  rw [last, first]
  exact spuFlags_byte hl

/-- The blocks of a mono stream, one after another. -/
theorem monoBlocks_eq (s : State) (flags : Nat → Byte) (n : Nat) :
    (List.range n).flatMap (fun j => s.blockBytes 1 0 j (flags j)) =
      spuStream (fun j => s.samples Config.hw (28 * j) 1) flags n 0 ⟨0, 0, 0⟩ := by
  have samples : (fun j => s.samples Config.hw (28 * j * 1 + 0) 1) = fun j => s.samples Config.hw (28 * j) 1 :=
    funext fun j => by rw [Nat.mul_one, Nat.add_zero]
  refine Eq.trans (List.flatMap_congr fun j _ => ?_)
    (spuStream_eq_flatMap (fun j => s.samples Config.hw (28 * j) 1) flags n 0).symm
  rw [Nat.zero_add, State.blockBytes, State.blockOf]
  simp only [samples]
  rw [Nat.mul_one, Nat.add_zero]

theorem mxSpu_runs {s : State} (hs : s.StreamReady) (hsize : s.scr.size = 28) (hl : s.cfg.loop.written = true)
    (hone : s.cfg.channels.val = 1) :
    let blocks := (s.pcm.length + 27) / 28
    let header := if s.cfg.format.val = .vag then
      vagHeader Config.hw false 0 (16 * blocks) s.cfg.frequency.val s.cfg.channels.val else []
    ∃ t, mxSpu Config.hw s = .next t ∧ t.fault = false ∧ t.phase = .done ∧ s.SpuStream t (header ++
      spuStream (fun j => s.samples Config.hw (28 * j) 1) (monoFlags s.cfg.loop.val blocks) blocks 0 ⟨0, 0, 0⟩)
      fun _ => blocks := by
  intro blocks header
  obtain ⟨u, start, fault, started⟩ := startStream_runs hs
  obtain ⟨cfg, pcm⟩ := started.input
  have total : samplesPerChannel u s.cfg.channels.val = s.pcm.length := by
    rw [samplesPerChannel_eq hs pcm, hone, Nat.div_one]
  have count : ceilDiv s.pcm.length Config.hw.nsamp = blocks := ceilDiv_of_pos (by decide)
  have stream := (started.spuStream hsize).emit header
  rw [List.nil_append] at stream
  have head : (if s.cfg.format.val = .vag then
      u.emit (vagHeader Config.hw false 0 (16 * blocks) s.cfg.frequency.val s.cfg.channels.val) else u) = u.emit header := by
    simp only [header]
    split_ifs
    · rfl
    · rw [State.emit, List.append_nil]
  obtain ⟨t, run, tfault, phase, done⟩ := chunkLoop_runs (P := fun n t => s.SpuStream t
      (header ++ (List.range n).flatMap fun j => s.blockBytes 1 0 j (monoFlags s.cfg.loop.val blocks j)) fun _ => n)
    (body := spuChunk Config.hw s.cfg.channels.val s.pcm.length) blocks (fun i t p h => h.setPhase p)
    (fun j t hj tf h => by
      obtain ⟨v, run, vf, next⟩ := h.block (k := 0) (count' := fun _ => j + 1)
        (flags := spuFlags (j == 0) (decide (s.pcm.length ≤ Config.hw.nsamp * (j + 1)))) tf hs.written.channels hl
        (by omega) rfl (fun d hd hd0 => absurd hd (by omega))
      rw [hw_nsamp, spuFlags_eq_monoFlags (hs.loop_le hl) hj, hone] at next
      refine ⟨v, run, vf, ?_⟩
      rw [List.range_succ, List.flatMap_append, List.flatMap_singleton, ← List.append_assoc]
      exact next) (u.emit header) fault (by rw [List.range_zero, List.flatMap_nil, List.append_nil]; exact stream)
  rw [monoBlocks_eq] at done
  refine ⟨t, ?_, tfault, phase, done⟩
  rw [mxSpu, start, andThen_next_ok fault, cfg, need_written hs.written.format, need_written hs.written.channels,
    need_written hs.written.frequency]
  simp only [total, count, head]
  exact run

/-- Settles O48: one block after another, each from the state the one before left. -/
theorem spuStreamIsTheBlocksInOrder : Obligations.SpuStreamIsTheBlocksInOrder := by
  intro s hs hmem hformat total blocks flags
  obtain ⟨-, -, -, -, -, -, -, scr, -⟩ := hmem
  obtain ⟨mono, -, -⟩ := hs.valid 3 (by decide) (by decide)
  have hl : s.cfg.loop.written = true := hs.written.loop (by rcases hformat with h | h <;> rw [h] <;> rfl)
  obtain ⟨t, run, fault, phase, frame, -, sink, -⟩ := mxSpu_runs hs scr hl (mono hformat)
  have header := vagHeader_spec false 0 (16 * blocks) s.cfg.frequency.val s.cfg.channels.val
  refine ⟨t, if s.cfg.format.val = .vag then vagHeader Config.hw false 0 (16 * blocks) s.cfg.frequency.val
    s.cfg.channels.val else [], (unlessFaulted_ok hs.fault _).trans run, phase, fault, ?_, fun h => ?_, fun h => ?_, ?_⟩
  · rw [sink, List.append_assoc]
    rfl
  · rw [h]
    rfl
  · rw [if_pos h]
    exact header
  · rw [← phase]
    exact frame

/-! ## MX.SPUI (R290) -/

section
variable {α : Type}

/-- A run of bytes inside the front part of a string. -/
theorem take_drop_append {a : List α} (b : List α) {o n : Nat} (h : o + n ≤ a.length) :
    ((a ++ b).drop o).take n = (a.drop o).take n := by
  rw [List.drop_append_of_le_length (by omega), List.take_append_of_le_length (by rw [List.length_drop]; omega)]

/-- Run `j` of runs of `L` elements. -/
theorem take_drop_flatMap_range {L : Nat} {f : Nat → List α} (n : Nat) (hf : ∀ j, j < n → (f j).length = L) {j : Nat}
    (hj : j < n) : (((List.range n).flatMap f).drop (L * j)).take L = f j := by
  have length := length_flatMap_range n hf
  have room : L * j + L ≤ L * n := Nat.mul_succ L j ▸ Nat.mul_le_mul_left L hj
  refine List.ext_getElem (by rw [List.length_take, List.length_drop, length, hf j hj]; omega) fun i h1 h2 => ?_
  have hi : i < L := hf j hj ▸ h2
  obtain ⟨x, -⟩ : ∃ x, x = (f j)[i] := ⟨_, rfl⟩
  have run := getD_flatMap_range x n hf hj hi
  rw [List.getD_eq_getElem _ _ h2, List.getD_eq_getElem _ _ (by rw [length]; omega)] at run
  rw [List.getElem_take, List.getElem_drop, run]

end

theorem VagHeader.append {x : List Byte} {magic : Byte} {interleave dataLength frequency channels : Nat}
    (h : VagHeader x magic interleave dataLength frequency channels) (hx : x.length = 48) (rest : List Byte) :
    VagHeader (x ++ rest) magic interleave dataLength frequency channels := by
  have field : ∀ o n, o + n ≤ 48 → ((x ++ rest).drop o).take n = (x.drop o).take n := fun o n hon =>
    take_drop_append rest (by omega)
  refine ⟨(field 0 4 (by decide)).trans h.magicIs, ?_, ?_, ?_, ?_, ?_, ?_, ?_⟩
  · rw [field 0x04 4 (by decide)]; exact h.versionIs
  · rw [field 0x08 4 (by decide)]; exact h.interleaveIs
  · rw [field 0x0C 4 (by decide)]; exact h.dataLengthIs
  · rw [field 0x10 4 (by decide)]; exact h.frequencyIs
  · rw [field 0x14 10 (by decide)]; exact h.reservedIs
  · rw [field 0x1E 2 (by decide)]; exact h.channelsIs
  · rw [field 0x20 16 (by decide)]; exact h.nameIs

theorem State.SpuStream.congr {s t : State} {x : List Byte} {count count' : Nat → Nat} (h : s.SpuStream t x count)
    (hc : ∀ d, d < s.cfg.channels.val → count d = count' d) : s.SpuStream t x count' :=
  ⟨h.frame, h.size, h.sink, fun d hd => hc d hd ▸ h.channel d hd⟩

/-- How many blocks of channel `d` are encoded when block `i` of channel `k` of chunk `q` is next. -/
def spuiCount (bi q k i d : Nat) : Nat := if d < k then (q + 1) * bi else if d = k then q * bi + i else q * bi

/-- The flag byte of block `i` of chunk `q` (R290, R292). -/
def spuiFlagByte (loop bi chunks q i : Nat) : Byte := BitVec.ofNat 8
  ((if q * bi + i = 0 ∧ loop = 1 then 4 else 0) + (if i + 1 = bi ∧ q + 1 = chunks then 1 else 0) +
    (if (i + 1 = bi ∧ q + 1 = chunks) ∧ loop = 1 then 2 else 0))

/-- The bytes of block `i` of channel `k` of chunk `q` (R290). -/
def State.spuiBlock (s : State) (bi chunks q k i : Nat) : List Byte :=
  s.blockBytes s.cfg.channels.val k (q * bi + i) (spuiFlagByte s.cfg.loop.val bi chunks q i)

/-- The same by the block's place in the stream. -/
def State.spuiBlockAt (s : State) (bi chunks key : Nat) : List Byte :=
  s.spuiBlock bi chunks (key / bi / s.cfg.channels.val) (key / bi % s.cfg.channels.val) (key % bi)

theorem State.spuiBlockAt_eq (s : State) {bi : Nat} (chunks : Nat) {q k i : Nat} (hk : k < s.cfg.channels.val)
    (hi : i < bi) : s.spuiBlockAt bi chunks ((q * s.cfg.channels.val + k) * bi + i) = s.spuiBlock bi chunks q k i := by
  have block : ∀ a : Nat, (a * bi + i) / bi = a ∧ (a * bi + i) % bi = i := fun a => by
    rw [Nat.mul_comm, Nat.mul_add_div (by omega), Nat.div_eq_of_lt hi, Nat.add_zero, Nat.mul_add_mod, Nat.mod_eq_of_lt hi]
    exact ⟨rfl, rfl⟩
  have channel : (q * s.cfg.channels.val + k) / s.cfg.channels.val = q ∧
      (q * s.cfg.channels.val + k) % s.cfg.channels.val = k := by
    rw [Nat.mul_comm, Nat.mul_add_div (by omega), Nat.div_eq_of_lt hk, Nat.add_zero, Nat.mul_add_mod, Nat.mod_eq_of_lt hk]
    exact ⟨rfl, rfl⟩
  rw [State.spuiBlockAt, (block _).1, (block _).2, channel.1, channel.2]

theorem spuiFlags_eq {total bi q i loop : Nat} (hl : loop ≤ 1) (hi : i < bi)
    (hq : q < ((total + 27) / 28 + bi - 1) / bi) : spuiFlags Config.hw total bi q (q * bi + i) (loop != 0) =
      spuiFlagByte loop bi (((total + 27) / 28 + bi - 1) / bi) q i := by
  have ended : total ≤ (q + 1) * bi * 28 ↔ q + 1 = ((total + 27) / 28 + bi - 1) / bi := by
    have covered := Nat.div_le_iff_le_mul_add_pred (a := (total + 27) / 28 + bi - 1) (c := q + 1) (show 0 < bi by omega)
    rw [Nat.mul_comm bi] at covered
    omega
  have place : q * bi + i = (q + 1) * bi - 1 ↔ i + 1 = bi := by
    rw [Nat.succ_mul]
    omega
  have last : (q * bi + i == (q + 1) * bi - 1 && decide (total ≤ (q + 1) * bi * 28)) =
      decide (i + 1 = bi ∧ q + 1 = ((total + 27) / 28 + bi - 1) / bi) := by
    rw [Bool.decide_and]
    exact congrArg₂ _ (decide_eq_decide.2 place) (decide_eq_decide.2 ended)
  have first : (q * bi + i == 0) = decide (q * bi + i = 0) := rfl
  rw [spuiFlags, hw_nsamp, last, first]
  exact spuFlags_byte hl

/-- MX.SPUI when block `i` of channel `k` of chunk `q` is next. -/
def State.SpuiAt (s : State) (header : List Byte) (bi chunks : Nat) (t : State) (q k i : Nat) : Prop :=
  s.SpuStream t (header ++ (List.range ((q * s.cfg.channels.val + k) * bi + i)).flatMap (s.spuiBlockAt bi chunks))
    (spuiCount bi q k i)

section
variable {s t : State} {header : List Byte} {bi chunks q k i : Nat}

theorem State.SpuiAt.nextChannel (h : s.SpuiAt header bi chunks t q k bi) : s.SpuiAt header bi chunks t q (k + 1) 0 := by
  have place : (q * s.cfg.channels.val + (k + 1)) * bi + 0 = (q * s.cfg.channels.val + k) * bi + bi := by
    rw [← Nat.add_assoc, Nat.succ_mul, Nat.add_zero]
  rw [State.SpuiAt, place]
  refine h.congr fun d _ => ?_
  rw [spuiCount, spuiCount, Nat.succ_mul]
  split_ifs <;> omega

theorem State.SpuiAt.nextChunk (h : s.SpuiAt header bi chunks t q s.cfg.channels.val 0) :
    s.SpuiAt header bi chunks t (q + 1) 0 0 := by
  rw [State.SpuiAt, Nat.succ_mul, Nat.add_zero (q * _ + _)]
  refine h.congr fun d hd => ?_
  rw [spuiCount, spuiCount, if_pos hd, if_neg (Nat.not_lt_zero d)]
  simp

/-- One block of MX.SPUI. -/
theorem State.SpuiAt.block (hs : s.StreamReady) (hl : s.cfg.loop.written = true)
    (hchunks : chunks = ((s.pcm.length / s.cfg.channels.val + 27) / 28 + bi - 1) / bi) (hq : q < chunks)
    (hk : k < s.cfg.channels.val) (hi : i < bi) (hf : t.fault = false) (h : s.SpuiAt header bi chunks t q k i) :
    ∃ u, spuUnit Config.hw s.cfg.channels.val k (q * bi + i)
      (spuiFlags Config.hw (s.pcm.length / s.cfg.channels.val) bi q (q * bi + i)) t = .next u ∧ u.fault = false ∧
      s.SpuiAt header bi chunks u q k (i + 1) := by
  have here : spuiCount bi q k i k = q * bi + i := by rw [spuiCount, if_neg (Nat.lt_irrefl k), if_pos rfl]
  obtain ⟨u, run, fault, next⟩ := State.SpuStream.block (k := k) (count' := spuiCount bi q k (i + 1))
    (flags := spuiFlags Config.hw (s.pcm.length / s.cfg.channels.val) bi q (q * bi + i)) h hf hs.written.channels hl hk
    (by rw [here, spuiCount, if_neg (Nat.lt_irrefl k), if_pos rfl, Nat.add_assoc])
    (fun d _ hd => by rw [spuiCount, spuiCount, if_neg hd, if_neg hd])
  have flags := spuiFlags_eq (hs.loop_le hl) hi (hchunks ▸ hq)
  rw [here, flags, ← hchunks] at next
  rw [here] at run
  refine ⟨u, run, fault, ?_⟩
  rw [State.SpuiAt, ← Nat.add_assoc, List.range_succ, List.flatMap_append, List.flatMap_singleton,
    s.spuiBlockAt_eq chunks hk hi, ← List.append_assoc]
  exact next

/-- One chunk of MX.SPUI. -/
theorem State.SpuiAt.chunk (hs : s.StreamReady) (hl : s.cfg.loop.written = true)
    (hchunks : chunks = ((s.pcm.length / s.cfg.channels.val + 27) / 28 + bi - 1) / bi) (hq : q < chunks)
    (hf : t.fault = false) (h : s.SpuiAt header bi chunks t q 0 0) :
    ∃ u, spuiChunk Config.hw s.cfg.channels.val bi (s.pcm.length / s.cfg.channels.val) q t = .next u ∧
      u.fault = false ∧ s.SpuiAt header bi chunks u (q + 1) 0 0 := by
  obtain ⟨u, run, fault, -, done⟩ := forEach_range_runs
    (P := fun k t => t.fault = false ∧ s.SpuiAt header bi chunks t q k 0) s.cfg.channels.val
    (f := fun k t => forEach (List.range bi) (fun i t => spuUnit Config.hw s.cfg.channels.val k (q * bi + i)
      (spuiFlags Config.hw (s.pcm.length / s.cfg.channels.val) bi q (q * bi + i)) t) t) (fun k t hk ht => by
      obtain ⟨u, run, fault, -, done⟩ := forEach_range_runs
        (P := fun i t => t.fault = false ∧ s.SpuiAt header bi chunks t q k i) bi (fun i t hi ht => by
          obtain ⟨u, run, fault, next⟩ := State.SpuiAt.block hs hl hchunks hq hk hi ht.1 ht.2
          exact ⟨u, run, fault, fault, next⟩) t ht.1 ht
      exact ⟨u, run, fault, fault, done.nextChannel⟩) t hf ⟨hf, h⟩
  exact ⟨u, run, fault, done.nextChunk⟩

end

/-- What MX.SPUI puts before its chunks (R290, R291). -/
def State.spuiHeader (s : State) (bi chunks : Nat) : List Byte :=
  if s.cfg.format.val = .vagi then padTo s.cfg.alignment.val
    (vagHeader Config.hw true s.cfg.interleave.val (16 * bi * chunks) s.cfg.frequency.val s.cfg.channels.val) else []

theorem mxSpui_runs {s : State} (hs : s.StreamReady) (hsize : s.scr.size = 28)
    (hformat : s.cfg.format.val = .spui ∨ s.cfg.format.val = .vagi) (hbi : 0 < s.cfg.interleave.val / 16) :
    let bi := s.cfg.interleave.val / 16
    let chunks := ((s.pcm.length / s.cfg.channels.val + 27) / 28 + bi - 1) / bi
    ∃ t, mxSpui Config.hw s = .next t ∧ t.fault = false ∧ t.phase = .done ∧
      s.SpuiAt (s.spuiHeader bi chunks) bi chunks t chunks 0 0 := by
  intro bi chunks
  have hl : s.cfg.loop.written = true := hs.written.loop (by rcases hformat with h | h <;> rw [h] <;> rfl)
  obtain ⟨u, start, fault, started⟩ := startStream_runs hs
  obtain ⟨cfg, pcm⟩ := started.input
  have total := samplesPerChannel_eq hs pcm
  have count : ceilDiv (ceilDiv (s.pcm.length / s.cfg.channels.val) Config.hw.nsamp) bi = chunks :=
    (ceilDiv_of_pos hbi).trans (congrArg (fun n => (n + bi - 1) / bi) (ceilDiv_of_pos (by decide)))
  have stream : s.SpuiAt (s.spuiHeader bi chunks) bi chunks (u.emit (s.spuiHeader bi chunks)) 0 0 0 := by
    rw [State.SpuiAt, Nat.zero_mul, Nat.zero_add, Nat.zero_mul, List.range_zero, List.flatMap_nil, List.append_nil]
    refine ((started.spuStream hsize).emit _).congr fun d _ => ?_
    rw [spuiCount, Nat.zero_mul, if_neg (Nat.not_lt_zero d), Nat.add_zero, ite_self]
  obtain ⟨t, run, tfault, phase, done⟩ := chunkLoop_runs
    (P := fun q t => s.SpuiAt (s.spuiHeader bi chunks) bi chunks t q 0 0) chunks (fun q t p h => h.setPhase p)
    (body := spuiChunk Config.hw s.cfg.channels.val bi (s.pcm.length / s.cfg.channels.val))
    (fun q t hq tf h => State.SpuiAt.chunk hs hl rfl hq tf h) (u.emit (s.spuiHeader bi chunks)) fault stream
  refine ⟨t, ?_, tfault, phase, done⟩
  rw [mxSpui, start, andThen_next_ok fault, cfg, need_written hs.written.format, need_written hs.written.channels,
    need_written hs.written.frequency, need_written (hs.written.interleave hformat)]
  simp only [total]
  rw [count]
  rcases hformat with h | h
  · have other : ¬ s.cfg.format.val = .vagi := by rw [h]; decide
    rw [State.spuiHeader, if_neg other, State.emit, List.append_nil] at run
    rw [if_neg other]
    exact run
  · rw [State.spuiHeader, if_pos h] at run
    rw [if_pos h, need_written (hs.written.alignment h)]
    exact run

/-- Zero padding reaches the next multiple, and the bytes after the string are zero (R290, R291). -/
theorem padTo_length {unit : Nat} (hu : 0 < unit) (bs : List Byte) :
    (padTo unit bs).length = (bs.length + unit - 1) / unit * unit := by
  have up := Nat.lt_div_mul_add (a := bs.length + unit - 1) hu
  rw [padTo, List.length_append, List.length_replicate, ceilDiv_of_pos hu]
  omega

theorem padTo_getD {unit i : Nat} {bs : List Byte} (h : bs.length ≤ i) : (padTo unit bs).getD i 0 = 0 := by
  rw [padTo, List.getD_append_right _ _ _ _ h]
  simp

/-- Settles O49: whole chunks of each channel's blocks in turn. -/
theorem spuiStreamIsWholeChunks : Obligations.SpuiStreamIsWholeChunks := by
  intro s hs hmem hformat ch bi total chunks hlen
  obtain ⟨-, -, -, -, -, -, -, scr, -⟩ := hmem
  obtain ⟨whole, aligned⟩ := hs.valid 5 (by decide) (by decide)
  obtain ⟨pos, mod⟩ := whole hformat
  have hbi : 0 < s.cfg.interleave.val / 16 := by omega
  obtain ⟨t, run, fault, phase, frame, -, sink, -⟩ := mxSpui_runs hs scr hformat hbi
  obtain ⟨length, header⟩ := vagHeader_spec true s.cfg.interleave.val (16 * bi * chunks) s.cfg.frequency.val ch
  have head : (s.spuiHeader bi chunks).length = hlen := by
    by_cases h : s.cfg.format.val = .vagi
    · rw [State.spuiHeader, if_pos h, padTo_length (aligned h), length]
      exact (if_pos h).symm
    · rw [State.spuiHeader, if_neg h]
      exact (if_neg h).symm
  have blocks : ∀ key, key < chunks * ch * bi → (s.spuiBlockAt bi chunks key).length = 16 := fun _ _ =>
    spuBytes_length _ _ _
  refine ⟨t, s.spuiHeader bi chunks ++ (List.range (chunks * ch * bi)).flatMap (s.spuiBlockAt bi chunks),
    (unlessFaulted_ok hs.fault _).trans run, phase, fault, sink, ?_, fun h => ⟨?_, fun i h48 hi => ?_⟩,
    fun q k i hq hk hi => ?_, ?_⟩
  · rw [List.length_append, head, length_flatMap_range _ blocks, Nat.mul_comm 16, Nat.mul_assoc (chunks * ch)]
    congr 2
    omega
  · rw [State.spuiHeader, if_pos h, padTo, List.append_assoc]
    exact header.append length _
  · rw [List.getD_append _ _ _ _ (head ▸ hi), State.spuiHeader, if_pos h]
    exact padTo_getD (length.trans_le h48)
  · have key : (q * ch + k) * bi + i < chunks * ch * bi := by
      have row : (q * ch + k + 1) * bi ≤ chunks * ch * bi := Nat.mul_le_mul_right bi (by
        have := Nat.mul_le_mul_right ch (show q + 1 ≤ chunks from hq)
        rw [Nat.succ_mul] at this
        omega)
      rw [Nat.succ_mul] at row
      omega
    intro j block last
    rw [← head, List.drop_append, List.drop_eq_nil_of_le (by omega), List.nil_append, Nat.add_sub_cancel_left,
      take_drop_flatMap_range _ blocks key, s.spuiBlockAt_eq chunks hk hi]
    rfl
  · rw [← phase]
    exact frame

end Sys2Proof.Machine
end

section
/-! SUPPORT. Sectors in a stream: which operations SC_LBA_BASE reaches (log 16), how a sector is finished
(spec/43_sector.md R243 to R259), and the raw image (spec/44_stream_sequencing.md R297): O52. -/

namespace Sys2Proof.Machine

/-! ## Only SC.STAMP reads SC_LBA_BASE (log 16) -/

section
variable (base : Nat)

theorem withBase_gfTables : gfTables (Config.withBase base) = gfTables Config.hw := by
  have walk : ∀ n x, gfWalk (Config.withBase base) n x = gfWalk Config.hw n x := fun n => by
    induction n with
    | zero => exact fun _ => rfl
    | succ n ih => exact fun x => congrArg (x :: ·) (ih _)
  rw [gfTables, gfTables, walk]

theorem withBase_scPq (s : State) : scPq (Config.withBase base) s = scPq Config.hw s := by
  have bytes : pqBytes (Config.withBase base) s.secByte = pqBytes Config.hw s.secByte := by
    rw [pqBytes, pqBytes, withBase_gfTables]
    rfl
  rw [scPq, scPq, bytes]

theorem withBase_scEdc (form : Nat) (s : State) : scEdc (Config.withBase base) form s = scEdc Config.hw form s := rfl

theorem withBase_scEmit (size : Nat) (s : State) : scEmit (Config.withBase base) size s = scEmit Config.hw size s := rfl

theorem withBase_startStream (s : State) : startStream (Config.withBase base) s = startStream Config.hw s := rfl

theorem withBase_minShiftOf (v : Channel) (xs : List Int) (f : Nat) :
    minShiftOf (Config.withBase base) v xs f = minShiftOf Config.hw v xs f := by
  have range : ∀ (xs : List Int) (p1 p2 emin emax : Int), residualRange (Config.withBase base) f xs p1 p2 emin emax =
      residualRange Config.hw f xs p1 p2 emin emax := fun xs => by
    induction xs with
    | nil => exact fun _ _ _ _ => rfl
    | cons x xs ih => exact fun p1 p2 _ _ => ih x p1 _ _
  rw [minShiftOf, minShiftOf, range]
  rfl

theorem withBase_searchBest (v : Channel) (xs : List Int) (fc : Nat) :
    searchBest (Config.withBase base) v xs fc = searchBest Config.hw v xs fc := by
  have pairs : searchPairs (Config.withBase base) v xs fc = searchPairs Config.hw v xs fc :=
    List.flatMap_congr fun f _ => congrArg _ (congrArg (shiftWindow Config.hw) (withBase_minShiftOf base v xs f))
  rw [searchBest, searchBest, pairs]
  rfl

theorem withBase_adEncode (t : Target) (ch start stride fc dbase ds dp : Nat) (s : State) :
    adEncode (Config.withBase base) t ch start stride fc dbase ds dp s =
      adEncode Config.hw t ch start stride fc dbase ds dp s := by
  have check : checkEncode (Config.withBase base) = checkEncode Config.hw := rfl
  have samples : s.samples (Config.withBase base) = s.samples Config.hw := rfl
  have cand : candOf (Config.withBase base) = candOf Config.hw := rfl
  have put : s.putNibbles (Config.withBase base) = s.putNibbles Config.hw := rfl
  rw [adEncode, adEncode]
  simp only [check, samples, cand, put, withBase_searchBest, withBase_minShiftOf]

theorem withBase_vdRate (s : State) : vdRate (Config.withBase base) s = vdRate Config.hw s := by
  have loop : ∀ frame n t, rateLoop (Config.withBase base) frame n t = rateLoop Config.hw frame n t := fun frame n => by
    induction n with
    | zero => exact fun _ => rfl
    | succ n ih => exact fun t => congrArg (ite _ t) (ih (t + 1))
  unfold vdRate
  simp only [loop]
  rfl

theorem withBase_packBlock (q : QBlock) (s : State) :
    packBlock (Config.withBase base) q s = packBlock Config.hw q s := by
  have ac : ∀ vs run s, packAc (Config.withBase base) vs run s = packAc Config.hw vs run s := fun vs => by
    induction vs with
    | nil => exact fun _ _ => rfl
    | cons v vs ih =>
      intro run s
      rw [packAc, packAc]
      simp only [ih]
      rfl
  unfold packBlock
  simp only [ac]
  rfl

theorem withBase_vdFrame (n : Nat) (s : State) : vdFrame (Config.withBase base) n s = vdFrame Config.hw n s := by
  have pack : vdPack (Config.withBase base) = vdPack Config.hw := funext fun m => funext fun b => funext fun s => by
    unfold vdPack
    simp only [withBase_packBlock]
  have first : vdBegin (Config.withBase base) = vdBegin Config.hw := rfl
  have encode : encodeMacroblocks (Config.withBase base) = encodeMacroblocks Config.hw := rfl
  have last : vdEnd (Config.withBase base) = vdEnd Config.hw := rfl
  have demux : vdDemux (Config.withBase base) = vdDemux Config.hw := rfl
  unfold vdFrame packBlocks
  simp only [first, encode, withBase_vdRate, pack, last, demux]

end

/-! ## A finished sector (R243 to R259) -/

section
variable (read : Nat → Byte) {a i : Nat} {bs : List Byte}

theorem State.secByte_putSec_eq (s : State) (a : Nat) (bs : List Byte) :
    (s.putSec a bs).secByte = overlay s.secByte a bs := funext (s.secByte_putSec a bs)

theorem State.putSec_nil (s : State) : s.putSec 0 [] = s := by
  simp [State.putSec, Memory.writeList, Store.putList, Store.indexed]

theorem overlay_inside (ha : a ≤ i) (hi : i < a + bs.length) : overlay read a bs i = bs.getD (i - a) 0 :=
  if_pos ⟨ha, hi⟩

theorem overlay_outside (h : i < a ∨ a + bs.length ≤ i) : overlay read a bs i = read i := if_neg (by omega)

/-- The sector with its header, its EDC, and the parity if it has one. -/
def finishedSector (header : List Byte) (form : Nat) (pq : Bool) : Nat → Byte :=
  let stamped := overlay read 0 header
  let covered := overlay stamped (0x010 + edcLength form) (le32 (edc Config.hw (bytesOf stamped 0x010 (edcLength form))))
  if pq then paritySector covered else covered

end

section
variable {read : Nat → Byte} {header : List Byte} {form : Nat} {pq : Bool}

/-- A form 1 or form 2 sector whose header is 16 bytes or stays; the parity goes with form 1. -/
structure SectorKindOk (header : List Byte) (form : Nat) (pq : Bool) : Prop where
  short : header.length ≤ 16
  known : form = 1 ∨ form = 2
  first : pq = true → form = 1

theorem edcLength_le (h : form = 1 ∨ form = 2) : edcLength form ≤ 0x91C := by
  rcases h with rfl | rfl <;> decide

/-- The parity stands behind the EDC. -/
theorem finishedSector_before (h : SectorKindOk header form pq) {a : Nat} (ha : a < 0x010 + edcLength form + 4) :
    finishedSector read header form pq a = overlay (overlay read 0 header) (0x010 + edcLength form)
      (le32 (edc Config.hw (bytesOf (overlay read 0 header) 0x010 (edcLength form)))) a := by
  cases pq with
  | false => rfl
  | true =>
    obtain rfl := h.first rfl
    exact paritySector_outside _ (.inl ha)

theorem finishedSector_header (h : SectorKindOk header form pq) {a : Nat} (ha : a < header.length) :
    finishedSector read header form pq a = header.getD a 0 := by
  have short := h.short
  rw [finishedSector_before h (by omega), overlay_outside _ (.inl (by omega)), overlay_inside _ (Nat.zero_le a) (by omega)]
  rfl

theorem finishedSector_body (h : SectorKindOk header form pq) {a : Nat} (h1 : 0x010 ≤ a)
    (h2 : a < 0x010 + edcLength form) : finishedSector read header form pq a = read a := by
  have short := h.short
  rw [finishedSector_before h (by omega), overlay_outside _ (.inl h2), overlay_outside _ (.inr (by omega))]

theorem finishedSector_edc (h : SectorKindOk header form pq) {i : Nat} (hi : i < 4) :
    finishedSector read header form pq (0x010 + edcLength form + i) =
      (edc Config.hw (bytesOf (finishedSector read header form pq) 0x010 (edcLength form))).extractLsb' (8 * i) 8 := by
  have covered : bytesOf (finishedSector read header form pq) 0x010 (edcLength form) =
      bytesOf (overlay read 0 header) 0x010 (edcLength form) := List.map_congr_left fun k hk => by
    have short := h.short
    have hk := List.mem_range.1 hk
    rw [finishedSector_body h (by omega) (by omega), overlay_outside _ (.inr (by omega))]
  rw [covered, finishedSector_before h (by omega), overlay_inside _ (by omega) (Nat.add_lt_add_left hi _),
    Nat.add_sub_cancel_left, List.getD_eq_getElem?_getD, le32_getElem? _ hi, Option.getD_some]

theorem finishedSector_rest (h : SectorKindOk header form false) {a : Nat} (ha : 0x010 + edcLength form + 4 ≤ a) :
    finishedSector read header form false a = read a := by
  have short := h.short
  exact (overlay_outside _ (.inr ha)).trans (overlay_outside _ (.inr (by omega)))

theorem finishedSector_parity : parityHolds (zeroedAt (finishedSector read header form true)) :=
  parityHolds_paritySector _

end

/-- The end of every sector: the stamp if `stamp`, the EDC, the parity if `pq`, and the bytes to `SINK`. -/
theorem sectorEnd_runs (base : Nat) {n form size : Nat} {stamp pq : Prop} [Decidable stamp] [Decidable pq] {s : State}
    (hf : s.fault = false) (hb : s.tbuilt = true) (hsec : s.sec.cells ≠ []) (hform : form = 1 ∨ form = 2)
    (hsize : size = 2352 ∨ size = 2336) (htime : stamp → n + base < 450000) :
    ∃ t, andThen (if stamp then scStamp (Config.withBase base) n s else .next s) (fun s =>
        andThen (scEdc (Config.withBase base) form s) fun s =>
        andThen (if pq then scPq (Config.withBase base) s else .next s) fun s =>
        scEmit (Config.withBase base) size s) = .next t ∧ t.fault = false ∧
      t = { s with sec := t.sec, tsSave := t.tsSave, sink := t.sink } ∧ (¬ pq → t.tsSave = s.tsSave) ∧
      t.sec.size = s.sec.size ∧ t.sink = s.sink ++ bytesOf
        (finishedSector s.secByte (if stamp then headerBytes (n + base) else []) form (decide pq)) (2352 - size) size := by
  have stamped : (if stamp then scStamp (Config.withBase base) n s else .next s) =
      .next (s.putSec 0 (if stamp then headerBytes (n + base) else [])) := by
    split_ifs with h
    · exact scStamp_of_minute s (by have := htime h; omega)
    · rw [State.putSec_nil]
  have written : (s.putSec 0 (if stamp then headerBytes (n + base) else [])).sec.cells ≠ [] := by
    split_ifs with h
    · exact s.putSec_written _ _ (List.cons_ne_nil _ _)
    · rwa [State.putSec_nil]
  rw [stamped]
  generalize (if stamp then headerBytes (n + base) else []) = header at *
  rw [andThen_next_ok (show (s.putSec 0 header).fault = false from hf), withBase_scEdc,
    scEdc_of_form Config.hw (s := s.putSec 0 header) hb hform written]
  obtain ⟨u, hu⟩ : ∃ u, u = (s.putSec 0 header).putSec (0x010 + edcLength form)
    (le32 (sectorEdc Config.hw form (s.putSec 0 header))) := ⟨_, rfl⟩
  have uwritten : u.sec.cells ≠ [] := hu ▸ State.putSec_written _ _ _ (List.cons_ne_nil _ _)
  have ufault : u.fault = false := by rw [hu]; exact hf
  have ubuilt : u.tbuilt = true := by rw [hu]; exact hb
  have covered : u.secByte = overlay (overlay s.secByte 0 header) (0x010 + edcLength form)
      (le32 (edc Config.hw (bytesOf (overlay s.secByte 0 header) 0x010 (edcLength form)))) := by
    rw [hu, State.secByte_putSec_eq, sectorEdc, State.secByte_putSec_eq]
  have frame : u = { s with sec := u.sec } := by rw [hu]; rfl
  have usize : u.sec.size = s.sec.size := by rw [hu]; rfl
  have sink : u.sink = s.sink := by rw [frame]
  have saved : u.tsSave = s.tsSave := by rw [frame]
  rw [← hu, andThen_next_ok ufault]
  clear hu
  split_ifs with h
  · have bytes : (u.withParity Config.hw).secByte = finishedSector s.secByte header form (decide pq) := by
      rw [funext u.secByte_withParity, covered, decide_eq_true h]
      rfl
    rw [withBase_scPq, scPq_of_built Config.hw ubuilt uwritten,
      andThen_next_ok (show (u.withParity Config.hw).fault = false from ufault), withBase_scEmit,
      scEmit_of_size (s := u.withParity Config.hw) (State.putSec_written _ _ _ (List.cons_ne_nil _ _)) hsize, bytes]
    obtain ⟨v, hv⟩ : ∃ v, v = u.withParity Config.hw := ⟨_, rfl⟩
    have vframe : v = { u with sec := v.sec, tsSave := v.tsSave } := by rw [hv]; rfl
    have vsize : v.sec.size = s.sec.size := by rw [hv]; exact usize
    have vfault : v.fault = false := by rw [vframe]; exact ufault
    have vsink : v.sink = s.sink := by rw [vframe]; exact sink
    rw [← hv]
    clear hv
    refine ⟨_, rfl, vfault, ?_, fun hn => absurd h hn, vsize, congrArg (· ++ _) vsink⟩
    rw [State.emit, vframe, frame]
  · have bytes : u.secByte = finishedSector s.secByte header form (decide pq) := by
      rw [covered, decide_eq_false h]
      rfl
    rw [andThen_next_ok ufault, withBase_scEmit, scEmit_of_size uwritten hsize, bytes]
    refine ⟨_, rfl, ufault, ?_, fun _ => saved, usize, congrArg (· ++ _) sink⟩
    rw [State.emit, frame]

/-! ## Sectors in a string -/

theorem bytesOf_add (read : Nat → Byte) (a n m : Nat) :
    bytesOf read a (n + m) = bytesOf read a n ++ bytesOf read (a + n) m := by
  simp [bytesOf, List.range_add, Nat.add_assoc]

/-- A run of bytes inside a run. -/
theorem take_drop_bytesOf (read : Nat → Byte) {a n k m : Nat} (h : k + m ≤ n) :
    ((bytesOf read a n).drop k).take m = bytesOf read (a + k) m := by
  obtain ⟨rest, rfl⟩ := Nat.exists_eq_add_of_le h
  have front : (bytesOf read a k).length = k := bytesOf_length read a k
  have part : (bytesOf read (a + k) m).length = m := bytesOf_length read _ m
  rw [Nat.add_assoc, bytesOf_add, bytesOf_add, List.drop_left' front, List.take_left' part]

/-- `n` strings of `size` bytes, one after another. -/
structure Sectors (x : List Byte) (size n : Nat) (Q : Nat → List Byte → Prop) : Prop where
  length : x.length = size * n
  each : ∀ j, j < n → Q j ((x.drop (size * j)).take size)

section
variable {x y : List Byte} {size n : Nat} {Q : Nat → List Byte → Prop}

theorem Sectors.nil : Sectors [] size 0 Q := ⟨rfl, fun _ h => absurd h (Nat.not_lt_zero _)⟩

theorem Sectors.append (h : Sectors x size n Q) (hy : y.length = size) (hq : Q n y) : Sectors (x ++ y) size (n + 1) Q := by
  obtain ⟨length, each⟩ := h
  refine ⟨by rw [List.length_append, length, hy, Nat.mul_succ], fun j hj => ?_⟩
  obtain hj | rfl : j < n ∨ j = n := by omega
  · have room : size * j + size ≤ size * n := Nat.mul_succ size j ▸ Nat.mul_le_mul_left size hj
    rw [take_drop_append y (by omega)]
    exact each j hj
  · rw [← length, List.drop_append_of_le_length le_rfl, List.drop_length, List.nil_append, ← hy, List.take_length]
    exact hq

end

/-- The sector read by `read` stands in `x`, its byte 0x010 at `o`. -/
def SectorAt (x : List Byte) (o : Nat) (read : Nat → Byte) : Prop := (x.drop o).take 2336 = bytesOf read 0x010 2336

section
variable {x : List Byte} {o p size : Nat} {read : Nat → Byte}

theorem sectorAt_of_run (hsize : size = 2352 ∨ size = 2336) (h : (x.drop p).take size = bytesOf read (2352 - size) size) :
    SectorAt x (p + (size - 2336)) read := by
  rcases hsize with rfl | rfl
  · have tail := congrArg (fun y => (y.drop 16).take 2336) h
    rw [take_drop_bytesOf _ (by decide), List.drop_take, List.take_take, List.drop_drop] at tail
    exact tail
  · exact h

theorem header_of_run (h : (x.drop p).take 2352 = bytesOf read 0 2352) : (x.drop p).take 16 = bytesOf read 0 16 := by
  have front := congrArg (fun y => (y.drop 0).take 16) h
  rwa [take_drop_bytesOf _ (by decide), List.drop_zero, List.take_take] at front

theorem SectorAt.run (h : SectorAt x o read) {k m : Nat} (hk : k + m ≤ 2336) :
    (x.drop (o + k)).take m = bytesOf read (0x010 + k) m := by
  have part := congrArg (fun y => (y.drop k).take m) h
  rwa [take_drop_bytesOf _ hk, List.drop_take, List.take_take, Nat.min_eq_left (by omega), List.drop_drop] at part

theorem SectorAt.byte (h : SectorAt x o read) {k : Nat} (hk : k < 2336) : x.getD (o + k) 0 = read (0x010 + k) := by
  have one := congrArg (fun y => y.getD 0 0) (h.run (k := k) (m := 1) hk)
  rw [bytesOf_getD _ _ (by decide), Nat.add_zero] at one
  rw [← one, List.getD_eq_getElem?_getD, List.getD_eq_getElem?_getD, List.getElem?_take_of_lt (by decide),
    List.getElem?_drop, Nat.add_zero]

/-- The EDC of a finished sector in the string. -/
theorem SectorAt.edcAt {header : List Byte} {form : Nat} {pq : Bool} (hk : SectorKindOk header form pq)
    (h : SectorAt x o (finishedSector read header form pq)) : edcAt x o (edcLength form) := by
  intro i hi
  have short := edcLength_le hk.known
  have covered := h.run (k := 0) (m := edcLength form) (by omega)
  rw [Nat.add_zero] at covered
  rw [Nat.add_assoc, h.byte (by omega), covered, ← Nat.add_assoc]
  exact finishedSector_edc hk hi

end

theorem parityHolds_congr {f g : Nat → Nat} (h : ∀ a, 0x00C ≤ a → a < 0x930 → f a = g a) (hg : parityHolds g) :
    parityHolds f := by
  obtain ⟨columns, diagonals⟩ := hg
  refine ⟨fun c l hc hl => ?_, fun d l hd hl => ?_⟩
  · have check := columns c l hc hl
    rw [← h _ (by omega) (by omega), ← h (0x81C + 86 + 2 * c + l) (by omega) (by omega)] at check
    exact codewordChecks_congr (fun k hk => h _ (by omega) (by omega)) check
  · have check := diagonals d l hd hl
    rw [← h _ (by omega) (by omega), ← h (0x8C8 + 52 + 2 * d + l) (by omega) (by omega)] at check
    exact codewordChecks_congr (fun k hk => h _ (by omega) (by omega)) check

end Sys2Proof.Machine
end

section
/-! SUPPORT. The raw image (spec/44_stream_sequencing.md R297): O52. -/

namespace Sys2Proof.Machine

/-! ## A subheader in a sector -/

/-- The eight bytes of the two copies of a subheader (R241). -/
def twoSubheaders (file channel submode coding : Nat) : List Byte :=
  subheader file channel submode coding ++ subheader file channel submode coding

/-- What SC.INIT leaves from 0x010 on. -/
theorem overlay_initBytes (read : Nat → Byte) (file channel submode coding : Nat) {i : Nat} (h : i < 8) :
    overlay read 0 (initBytes file channel submode coding) (0x010 + i) =
      (twoSubheaders file channel submode coding).getD i 0 := by
  rw [overlay_inside _ (Nat.zero_le _) (by rw [initBytes_length]; omega), initBytes, List.append_assoc]
  exact (List.getD_append_right _ _ _ _ (by rw [List.length_replicate]; omega)).trans
    (congrArg (fun k => List.getD _ k 0) (Nat.add_sub_cancel_left 0x010 i))

theorem twoSubheaders_eq {file channel submode coding : Nat} (hfile : file ≤ 255) (hch : channel ≤ 255)
    (hsub : submode ≤ 255) (hcod : coding ≤ 255) : twoSubheaders file channel submode coding =
      [BitVec.ofNat 8 file, BitVec.ofNat 8 channel, BitVec.ofNat 8 submode, BitVec.ofNat 8 coding] ++
        [BitVec.ofNat 8 file, BitVec.ofNat 8 channel, BitVec.ofNat 8 submode, BitVec.ofNat 8 coding] := by
  rw [twoSubheaders, subheader, byteField_of_le hfile, byteField_of_le hch, byteField_of_le hsub, byteField_of_le hcod]

/-- A run of bytes given one by one. -/
theorem bytesOf_eq {read : Nat → Byte} {a : Nat} {bs : List Byte}
    (h : ∀ i, i < bs.length → read (a + i) = bs.getD i 0) : bytesOf read a bs.length = bs := by
  refine List.ext_getElem (bytesOf_length _ _ _) fun i h1 h2 => ?_
  rw [← List.getD_eq_getElem _ 0, ← List.getD_eq_getElem _ 0, bytesOf_getD _ _ h2, h i h2]

theorem bytesOf_twoSubheaders {read : Nat → Byte} {file channel submode coding : Nat}
    (h : ∀ i, i < 8 → read (0x010 + i) = (twoSubheaders file channel submode coding).getD i 0) :
    bytesOf read 0x010 8 = twoSubheaders file channel submode coding :=
  bytesOf_eq (bs := twoSubheaders file channel submode coding) h

/-! ## MX.ISO2RAW -/

/-- The body of raw sector `j`: the subheader and the payload (R297). -/
structure State.RawBody (s : State) (j : Nat) (read : Nat → Byte) : Prop where
  subheader : ∀ i, i < 8 → read (0x010 + i) = (twoSubheaders s.cfg.file.val s.cfg.channel.val 0x08 0).getD i 0
  payload : ∀ i, i < 2048 → read (0x018 + i) = s.isoByte (2048 * j + i)

/-- The bytes of raw sector `j`. -/
def State.RawSector (s : State) (base j : Nat) (y : List Byte) : Prop :=
  ∃ read, s.RawBody j read ∧ y = bytesOf (finishedSector read (headerBytes (j + base)) 1 true) 0 2352

/-- MX.ISO2RAW after `n` sectors. -/
structure State.RawStream (s : State) (base n : Nat) (t : State) : Prop where
  frame : t = { s with sec := t.sec, tsSave := t.tsSave, sink := t.sink, phase := t.phase }
  emitted : ∃ x, t.sink = s.sink ++ x ∧ Sectors x 2352 n (s.RawSector base)

theorem State.RawStream.next {s t : State} {base n : Nat} (hfile : s.cfg.file.written = true)
    (hch : s.cfg.channel.written = true) (hb : s.tbuilt = true) (htime : n + base < 450000) (hf : t.fault = false)
    (h : s.RawStream base n t) : ∃ u, rawSector (Config.withBase base) n t = .next u ∧ u.fault = false ∧
      s.RawStream base (n + 1) u := by
  obtain ⟨frame, x, sink, sectors⟩ := h
  have cfg : t.cfg = s.cfg := by rw [frame]
  have iso : t.iso = s.iso := by rw [frame]
  have built : t.tbuilt = true := by rw [frame]; exact hb
  obtain ⟨v, hv⟩ : ∃ v, v = (t.putSec 0 (initBytes s.cfg.file.val s.cfg.channel.val 0x08 0)).putSec 0x018
    (bytesOf t.isoByte (2048 * n) 2048) := ⟨_, rfl⟩
  have body : s.RawBody n v.secByte := by
    rw [hv, State.secByte_putSec_eq, State.secByte_putSec_eq]
    refine ⟨fun i hi => ?_, fun i hi => ?_⟩
    · rw [overlay_outside _ (.inl (by omega)), overlay_initBytes _ _ _ _ _ hi]
    · rw [overlay_inside _ (by omega) (by rw [bytesOf_length]; omega), Nat.add_sub_cancel_left, bytesOf_getD _ _ hi,
        State.isoByte, State.isoByte, iso]
  have written : v.sec.cells ≠ [] := hv ▸ State.putSec_written _ _ _ (by simp [bytesOf])
  have vframe : v = { t with sec := v.sec } := by rw [hv]; rfl
  have vfault : v.fault = false := by rw [vframe]; exact hf
  obtain ⟨u, run, fault, uframe, -, -, usink⟩ := sectorEnd_runs base (n := n) (form := 1) (size := 2352) (stamp := True)
    (pq := True) vfault (by rw [vframe]; exact built) written (.inl rfl) (.inl rfl) fun _ => htime
  rw [if_pos trivial] at usink
  refine ⟨u, ?_, fault, ?_, x ++ _, ?_, sectors.append (bytesOf_length _ _ _) ⟨v.secByte, body, rfl⟩⟩
  · have init := scInit_of_bytes (submode := 0x08) (coding := 0) (s := t) (by decide) (by decide) (by rw [cfg]; exact hfile)
      (by rw [cfg]; exact hch)
    rw [cfg] at init
    have submode : submodeOf (Config.withBase base) .data false = 0x08 :=
      (show _ = submodeOf Config.hw .data false from rfl).trans (by decide)
    rw [rawSector, submode, init,
      andThen_next_ok (show (t.putSec 0 _).fault = false from hf)]
    rw [hv] at run
    exact run
  · rw [uframe, vframe, frame]
  · rw [usink, vframe, ← List.append_assoc, ← sink]
    rfl

theorem mxIso2raw_runs {s : State} {base : Nat} (hf : s.fault = false) (hp : s.phase = .init)
    (hsize : s.iso.size % 2048 = 0) (hb : s.tbuilt = true) (hfile : s.cfg.file.written = true)
    (hch : s.cfg.channel.written = true) (htime : ∀ n, n < s.iso.size / 2048 → n + base < 450000) :
    ∃ t, mxIso2raw (Config.withBase base) s = .next t ∧ t.fault = false ∧ t.phase = .done ∧
      s.RawStream base (s.iso.size / 2048) t := by
  obtain ⟨t, run, fault, phase, done⟩ := chunkLoop_runs (P := fun n t => s.RawStream base n t)
    (body := rawSector (Config.withBase base)) (s.iso.size / 2048)
    (fun n t p ⟨frame, emitted⟩ => ⟨by rw [State.setPhase, frame], emitted⟩)
    (fun n t hn tf h => h.next hfile hch hb (htime n hn) tf) (s.setPhase .encoding) hf
    ⟨rfl, [], (List.append_nil _).symm, .nil⟩
  refine ⟨t, ?_, fault, phase, done⟩
  rw [mxIso2raw, needInit_of_init hp, if_neg (by omega)]
  exact run

theorem rawKind (m : Nat) : SectorKindOk (headerBytes m) 1 true := ⟨le_rfl, .inl rfl, fun _ => rfl⟩

/-- The 16 header bytes of a stamped sector. -/
theorem finishedSector_headerBytes {read : Nat → Byte} {m form : Nat} {pq : Bool}
    (h : SectorKindOk (headerBytes m) form pq) :
    bytesOf (finishedSector read (headerBytes m) form pq) 0 16 = headerBytes m :=
  bytesOf_eq (bs := headerBytes m) fun i hi => by rw [Nat.zero_add, finishedSector_header h hi]

/-- The parity of a finished sector in the string. -/
theorem SectorAt.parityAt {x : List Byte} {o form : Nat} {read : Nat → Byte} {header : List Byte} (ho : 0x010 ≤ o)
    (h : SectorAt x o (finishedSector read header form true)) : parityAt x o := by
  refine parityHolds_congr (fun a h1 h2 => ?_) (finishedSector_parity (read := read) (header := header) (form := form))
  rw [zeroedAt, zeroedAt]
  split_ifs with header
  · rfl
  · have byte := h.byte (k := a - 0x010) (by omega)
    rw [show o + (a - 0x010) = o - 0x010 + a by omega, show 0x010 + (a - 0x010) = a by omega] at byte
    rw [byte]

/-- Settles O52: one sector after another, each finished over its subheader and its payload. -/
theorem isoImageBecomesRawSectors : Obligations.IsoImageBecomesRawSectors := by
  intro s base hf hp
  refine ⟨fun hsize => ?_, fun hsize hb hfile hch htime => ?_⟩
  · have fails : mxIso2raw Config.hw s = raise .addressRange s.iso.size s := by
      rw [mxIso2raw, needInit_of_init hp, if_pos hsize]
    exact (unlessFaulted_ok hf _).trans fails
  obtain ⟨t, run, fault, phase, frame, x, sink, sectors⟩ := mxIso2raw_runs hf hp hsize hb hfile hch htime
  refine ⟨t, x, run, fun h => ?_, phase, fault, sink, sectors.length, fun n hn => ?_, ?_⟩
  · rw [h, withBase_hw] at run
    exact (unlessFaulted_ok hf _).trans run
  · obtain ⟨read, ⟨subheader, payload⟩, sector⟩ := sectors.each n hn
    have kind := rawKind (n + base)
    have placed : SectorAt x (2352 * n + 0x010) (finishedSector read (headerBytes (n + base)) 1 true) :=
      sectorAt_of_run (p := 2352 * n) (size := 2352) (.inl rfl) sector
    have sub : (x.drop (2352 * n + 0x010)).take 8 = twoSubheaders s.cfg.file.val s.cfg.channel.val 0x08 0 := by
      refine (placed.run (k := 0) (m := 8) (by omega)).trans ?_
      exact bytesOf_twoSubheaders fun i hi => by
        rw [finishedSector_body kind (by omega) (by rw [edcLength, if_pos rfl]; omega), subheader i hi]
    have copy : ∀ k, k + 2 ≤ 8 → (x.drop (2352 * n + 0x010 + k)).take 2 =
        ((twoSubheaders s.cfg.file.val s.cfg.channel.val 0x08 0).drop k).take 2 := fun k hk => by
      rw [← sub, List.drop_take, List.take_take, Nat.min_eq_left (by omega), List.drop_drop]
    intro o
    refine ⟨?_, copy 2 (by decide), copy 6 (by decide), fun h1 h2 => ?_, fun i hi => ?_, placed.edcAt kind,
      placed.parityAt (by omega)⟩
    · rw [header_of_run sector, finishedSector_headerBytes kind]
    · exact sub.trans (twoSubheaders_eq h1 h2 (by decide) (by decide))
    · rw [Nat.add_assoc, placed.byte (by omega),
        finishedSector_body kind (by omega) (by rw [edcLength, if_pos rfl]; omega), ← payload i hi]
      congr 1
      omega
  · rw [← phase]
    exact frame

end Sys2Proof.Machine
end

section
/-! SUPPORT. XA sectors (spec/44_stream_sequencing.md R285 to R288): one sound unit, one sector, the stream: O50. -/

namespace Sys2Proof.Machine

/-! ## One sound unit in a sector (R287, R288) -/

/-- Where the first copy of unit `u`'s header byte stands in a sub-block. -/
def unitHeader (u : Nat) : Nat := if u < 4 then u else 4 + u

theorem unitHeader_lt {u : Nat} (hu : u < 8) : unitHeader u < 12 := by
  rw [unitHeader]
  split_ifs <;> omega

theorem headerAddrs_eq (g u : Nat) : headerAddrs g u = (g + unitHeader u, g + unitHeader u + 4) := by
  rw [headerAddrs, unitHeader]
  split_ifs
  · exact congrArg _ (Nat.add_right_comm g 4 u)
  · exact Prod.ext (Nat.add_assoc g 4 u) (by show g + 8 + u = g + (4 + u) + 4; omega)

theorem unitHeader_other {u v : Nat} (hu : u < 8) (hv : v < 8) (h : u ≠ v) :
    unitHeader u ≠ unitHeader v ∧ unitHeader u ≠ unitHeader v + 4 := by
  rw [unitHeader, unitHeader]
  split_ifs <;> omega

/-- The header byte of an encoded block (R100). -/
def Best.header (b : Best) : Byte := BitVec.ofNat 8 (16 * b.f + b.r)

/-- Unit `u` of the sub-block at `p` holds an encoded block. -/
structure UnitAt (read : Nat → Byte) (p u : Nat) (block : Best × Cand) : Prop where
  first : read (p + unitHeader u) = block.1.header
  second : read (p + unitHeader u + 4) = block.1.header
  lane : ∀ i, i < 28 → (read (p + 16 + 4 * i + u / 2) >>> (4 * (u % 2))).setWidth 4 = block.2.nib.getD i 0

/-- Unit `u` of the sub-block at `p` was written: it holds the block, the other nibble of each of its bytes and every
other byte stand. -/
structure UnitWritten (read read' : Nat → Byte) (p u : Nat) (block : Best × Cand) : Prop where
  unit : UnitAt read' p u block
  beside : ∀ i, i < 28 → (read' (p + 16 + 4 * i + u / 2) >>> (4 - 4 * (u % 2))).setWidth 4 =
    (read (p + 16 + 4 * i + u / 2) >>> (4 - 4 * (u % 2))).setWidth 4
  outside : ∀ a, (∀ i, i < 28 → a ≠ p + 16 + 4 * i + u / 2) → a ≠ p + unitHeader u → a ≠ p + unitHeader u + 4 →
    read' a = read a

/-- A unit keeps every other unit of the sector. -/
theorem UnitAt.keep {read read' : Nat → Byte} {g u g' u' : Nat} {block block' : Best × Cand} (hu : u < 8) (hu' : u' < 8)
    (hne : 8 * g' + u' ≠ 8 * g + u) (hw : UnitWritten read read' (0x018 + 128 * g) u block)
    (h : UnitAt read (0x018 + 128 * g') u' block') : UnitAt read' (0x018 + 128 * g') u' block' := by
  have short := unitHeader_lt hu
  have short' := unitHeader_lt hu'
  have apart : g' = g → unitHeader u' ≠ unitHeader u ∧ unitHeader u' ≠ unitHeader u + 4 ∧
      unitHeader u ≠ unitHeader u' + 4 := fun hg => by
    obtain ⟨ne, up⟩ := unitHeader_other hu' hu (by omega)
    exact ⟨ne, up, (unitHeader_other hu hu' (by omega)).2⟩
  obtain ⟨first, second, lane⟩ := h
  refine ⟨?_, ?_, fun i hi => ?_⟩
  · rw [hw.outside _ (fun i _ => by omega) (by omega) (by omega), first]
  · rw [hw.outside _ (fun i _ => by omega) (by omega) (by omega), second]
  · by_cases same : g' = g ∧ u' / 2 = u / 2
    · obtain ⟨rfl, pair⟩ := same
      have half : 4 * (u' % 2) = 4 - 4 * (u % 2) := by omega
      rw [← lane i hi, pair, half]
      exact hw.beside i hi
    · rw [hw.outside _ (fun k _ => by omega) (by omega) (by omega), lane i hi]

/-- AD.ENCODE into `SEC` touches the ADPCM registers and `SEC`, and keeps its size. -/
theorem encoded_sec_frame (s : State) (c base stride fc dbase ds dp : Nat) :
    let u := s.encoded Config.hw .sec c base stride fc dbase ds dp
    u = { s with ch := u.ch, cand := u.cand, best := u.best, adHdr := u.adHdr, adMse := u.adMse, adMin := u.adMin,
                 sec := u.sec } ∧ u.sec.size = s.sec.size := by
  obtain ⟨m, hm, size⟩ := putNibbles_eq_withTarget Config.hw s .sec dbase ds dp
    (encodeBlock fc (s.channel c) (s.samples Config.hw base stride)).2.nib
  have commits := encoded_eq .sec s c base stride fc dbase ds dp
  intro u
  constructor
  · rw [show u = _ from commits, hm]
    rfl
  · rw [show u = _ from commits, hm]
    exact size

theorem State.putHeaders_eq (s : State) (g u : Nat) : s.putHeaders g u =
    (s.putSec (g + unitHeader u) [s.adHdr.val]).putSec (g + unitHeader u + 4) [s.adHdr.val] := by
  rw [State.putHeaders, headerAddrs_eq]

theorem State.secByte_putSec_one (s : State) (a : Nat) (b : Byte) (i : Nat) :
    (s.putSec a [b]).secByte i = if i = a then b else s.secByte i := by
  rw [State.secByte_putSec, List.length_singleton]
  by_cases h : i = a
  · rw [if_pos (by omega), if_pos h, h, Nat.sub_self]
    rfl
  · rw [if_neg (by omega), if_neg h]

theorem State.secByte_putHeaders (s : State) (p u a : Nat) : (s.putHeaders p u).secByte a =
    if a = p + unitHeader u + 4 then s.adHdr.val else if a = p + unitHeader u then s.adHdr.val else s.secByte a := by
  rw [State.putHeaders_eq, State.secByte_putSec_one, State.secByte_putSec_one]

theorem samplesPerSector_eq {ch : Nat} (hch : ch = 1 ∨ ch = 2) : samplesPerSector Config.hw ch = 4032 / ch := by
  rw [samplesPerSector, countDiv_of_pos (by omega), hw_nsamp]
  rfl

theorem unitStart_eq {ch : Nat} (hch : ch = 1 ∨ ch = 2) (n g u : Nat) :
    unitStart Config.hw ch n g u = 28 * (n * (144 / ch) + (8 * g + u) / ch) := by
  rw [unitStart, samplesPerSector_eq hch, hw_nsamp]
  rcases hch with rfl | rfl <;> omega

/-- The bytes of a unit after AD.ENCODE into its lane and the two copies of its header byte. -/
theorem unitWritten_encoded (t : State) {c base stride g u : Nat} (hu : u < 8) :
    UnitWritten t.secByte
      ((t.encoded Config.hw .sec c base stride 4 (0x018 + 128 * g + 16 + u / 2) (4 * (u % 2)) 4).putHeaders
        (0x018 + 128 * g) u).secByte
      (0x018 + 128 * g) u (encodeBlock 4 (t.channel c) (t.samples Config.hw base stride)) := by
  have short := unitHeader_lt hu
  have half : 4 * (u % 2) = 0 ∨ 4 * (u % 2) = 4 := by omega
  have header := congrArg Marked.val (encoded_header (fc := 4) .sec t c base stride (0x018 + 128 * g + 16 + u / 2)
    (4 * (u % 2)) 4 (by decide))
  have lane : ∀ i, i < 28 →
      (t.encoded Config.hw .sec c base stride 4 (0x018 + 128 * g + 16 + u / 2) (4 * (u % 2)) 4).secByte
        (0x018 + 128 * g + 16 + 4 * i + u / 2) = withNibble (t.secByte (0x018 + 128 * g + 16 + 4 * i + u / 2)) (4 * (u % 2))
        ((encodeBlock 4 (t.channel c) (t.samples Config.hw base stride)).2.nib.getD i 0) := fun i hi => by
    have byte := encoded_targetByte (s := t) (c := c) (base := base) (stride := stride) (fc := 4)
      (dbase := 0x018 + 128 * g + 16 + u / 2) (ds := 4 * (u % 2)) (t := .sec) (dp := 4) (by decide) hi
    rwa [show 0x018 + 128 * g + 16 + u / 2 + i * 4 = 0x018 + 128 * g + 16 + 4 * i + u / 2 by omega] at byte
  refine ⟨⟨?_, ?_, fun i hi => ?_⟩, fun i hi => ?_, fun a hlane h1 h2 => ?_⟩
  · rw [State.secByte_putHeaders, if_neg (by omega), if_pos rfl]
    exact header
  · rw [State.secByte_putHeaders, if_pos rfl]
    exact header
  · rw [State.secByte_putHeaders, if_neg (by omega), if_neg (by omega), lane i hi, withNibble_lane _ _ half]
  · rw [State.secByte_putHeaders, if_neg (by omega), if_neg (by omega), lane i hi, withNibble_other _ _ half]
  · rw [State.secByte_putHeaders, if_neg h2, if_neg h1]
    exact encoded_targetByte_other (t := .sec) fun i hi => by have := hlane i hi; omega

theorem xaUnit_runs {t : State} {ch n g u : Nat} (hf : t.fault = false) (hw : t.cfg.channels.written = true)
    (hch : ch = 1 ∨ ch = 2) (hcfg : t.cfg.channels.val = ch) (hg : g < 18) (hu : u < 8) (hsize : t.sec.size = 2352) :
    let xs := t.samples Config.hw (28 * (n * (144 / ch) + (8 * g + u) / ch) * ch + u % ch) ch
    ∃ v, xaUnit Config.hw ch n g u t = .next v ∧ v.fault = false ∧
      v = { t with ch := v.ch, cand := v.cand, best := v.best, adHdr := v.adHdr, adMse := v.adMse, adMin := v.adMin,
                   sec := v.sec } ∧ v.sec.size = 2352 ∧ v.sec.cells ≠ [] ∧
      (∀ d, v.channel d = if d = u % ch then nextChannel 4 (t.channel (u % ch)) xs else t.channel d) ∧
      UnitWritten t.secByte v.secByte (0x018 + 128 * g) u (encodeBlock 4 (t.channel (u % ch)) xs) := by
  intro xs
  have pos : 0 < ch := by omega
  have ran := adEncode_runs (c := Config.hw) hw_sizes (t := .sec) (ch := u % ch)
    (base := 28 * (n * (144 / ch) + (8 * g + u) / ch) * ch + u % ch) (stride := ch) (fc := 4)
    (dbase := 0x018 + 128 * g + 16 + u / 2) (ds := 4 * (u % 2)) (dp := 4) hw
    ⟨lt_of_lt_of_eq (Nat.mod_lt _ pos) hcfg.symm, pos, by decide, by omega, by decide, fun i hi => by
      refine lt_of_lt_of_eq ?_ hsize.symm
      omega⟩
  obtain ⟨frame, size⟩ := encoded_sec_frame t (u % ch) (28 * (n * (144 / ch) + (8 * g + u) / ch) * ch + u % ch) ch 4
    (0x018 + 128 * g + 16 + u / 2) (4 * (u % 2)) 4
  have channel := encoded_channel .sec t (u % ch) (28 * (n * (144 / ch) + (8 * g + u) / ch) * ch + u % ch) ch 4
    (0x018 + 128 * g + 16 + u / 2) (4 * (u % 2)) 4
  have wrote := unitWritten_encoded t (c := u % ch) (base := 28 * (n * (144 / ch) + (8 * g + u) / ch) * ch + u % ch)
    (stride := ch) (g := g) hu
  obtain ⟨v, hv⟩ : ∃ v, v = t.encoded Config.hw .sec (u % ch) (28 * (n * (144 / ch) + (8 * g + u) / ch) * ch + u % ch) ch 4
    (0x018 + 128 * g + 16 + u / 2) (4 * (u % 2)) 4 := ⟨_, rfl⟩
  rw [← hv] at ran frame size channel wrote
  have fault : v.fault = false := by rw [frame]; exact hf
  refine ⟨v.putHeaders (0x018 + 128 * g) u, ?_, fault, ?_, size.trans hsize, ?_, channel, wrote⟩
  · rw [xaUnit, unitStart_eq hch, hw_fcXa, ran, andThen_next_ok fault]
  · rw [State.putHeaders_eq, State.putSec, State.putSec, frame]
  · rw [State.putHeaders_eq]
    exact State.putSec_written _ _ _ (List.cons_ne_nil _ _)

/-! ## One XA sector (R285, R286) -/

/-- How many blocks of channel `d` of `ch` are encoded when unit `m` of XA sector `n` is next. -/
def xaCount (ch n m d : Nat) : Nat := n * (144 / ch) + (m + ch - 1 - d) / ch

/-- The channels of a stream before unit `m` of its XA sector `n`. -/
def State.XaChannels (s : State) (n m : Nat) (t : State) : Prop :=
  ∀ d, d < s.cfg.channels.val → t.channel d = s.channelAt 4 s.cfg.channels.val d (xaCount s.cfg.channels.val n m d)

/-- The block of unit `u` of sub-block `g` of XA sector `n`. -/
def State.xaBlock (s : State) (n g u : Nat) : Best × Cand :=
  s.blockOf 4 s.cfg.channels.val (u % s.cfg.channels.val)
    (n * (144 / s.cfg.channels.val) + (8 * g + u) / s.cfg.channels.val)

/-- XA sector `n` when unit `m` is next: `t` came from `start`, whose `SEC` is filled with zeros. -/
structure State.XaPart (s start : State) (n m : Nat) (t : State) : Prop where
  frame : t = { start with ch := t.ch, cand := t.cand, best := t.best, adHdr := t.adHdr, adMse := t.adMse,
                           adMin := t.adMin, sec := t.sec }
  size : t.sec.size = 2352
  written : t.sec.cells ≠ []
  channels : s.XaChannels n m t
  units : ∀ g u, u < 8 → 8 * g + u < m → UnitAt t.secByte (0x018 + 128 * g) u (s.xaBlock n g u)
  fixed : ∀ a, a < 0x018 ∨ 0x918 ≤ a → t.secByte a = start.secByte a

theorem xaCount_here {ch : Nat} (hch : ch = 1 ∨ ch = 2) (n g u : Nat) :
    xaCount ch n (8 * g + u) (u % ch) = n * (144 / ch) + (8 * g + u) / ch := by
  rw [xaCount]
  rcases hch with rfl | rfl <;> omega

theorem xaCount_next {ch : Nat} (hch : ch = 1 ∨ ch = 2) (n g : Nat) {u d : Nat} (hd : d < ch) :
    xaCount ch n (8 * g + (u + 1)) d =
      if d = u % ch then xaCount ch n (8 * g + u) d + 1 else xaCount ch n (8 * g + u) d := by
  simp only [xaCount]
  rcases hch with rfl | rfl <;> split_ifs <;> omega

/-- After the 144 units of a sector the next sector begins. -/
theorem xaCount_sector {ch : Nat} (hch : ch = 1 ∨ ch = 2) (n : Nat) {d : Nat} (hd : d < ch) :
    xaCount ch n 144 d = xaCount ch (n + 1) 0 d := by
  simp only [xaCount]
  rcases hch with rfl | rfl <;> omega

theorem State.XaPart.next {s start t : State} {n g u : Nat} (hw : s.cfg.channels.written = true)
    (hch : s.cfg.channels.val = 1 ∨ s.cfg.channels.val = 2) (hcfg : start.cfg = s.cfg) (hpcm : start.pcm = s.pcm)
    (hg : g < 18) (hu : u < 8) (hf : t.fault = false) (h : s.XaPart start n (8 * g + u) t) :
    ∃ v, xaUnit Config.hw s.cfg.channels.val n g u t = .next v ∧ v.fault = false ∧ s.XaPart start n (8 * g + (u + 1)) v := by
  obtain ⟨frame, size, written, channels, units, fixed⟩ := h
  have cfg : t.cfg = s.cfg := by rw [frame]; exact hcfg
  have pcm : t.pcm = s.pcm := by rw [frame]; exact hpcm
  have samples : ∀ base stride, t.samples Config.hw base stride = s.samples Config.hw base stride := fun base stride => by
    unfold State.samples State.sample
    rw [pcm]
  obtain ⟨v, run, fault, vframe, vsize, vwritten, channel, wrote⟩ := xaUnit_runs (t := t) (ch := s.cfg.channels.val) (n := n)
    (g := g) (u := u) hf (by rw [cfg]; exact hw) hch (by rw [cfg]) hg hu size
  have here : t.channel (u % s.cfg.channels.val) = s.channelAt 4 s.cfg.channels.val (u % s.cfg.channels.val)
      (n * (144 / s.cfg.channels.val) + (8 * g + u) / s.cfg.channels.val) := by
    rw [channels _ (Nat.mod_lt _ (by omega)), xaCount_here hch]
  rw [samples, here] at wrote
  refine ⟨v, run, fault, ⟨?_, vsize, vwritten, fun d hd => ?_, fun g' u' hu' hm => ?_, fun a ha => ?_⟩⟩
  · rw [vframe, frame]
  · rw [channel, xaCount_next hch n g hd]
    by_cases hdu : d = u % s.cfg.channels.val
    · rw [if_pos hdu, if_pos hdu, hdu, xaCount_here hch, State.channelAt_succ, samples, here]
    · rw [if_neg hdu, if_neg hdu, channels d hd]
  · by_cases same : 8 * g' + u' = 8 * g + u
    · obtain ⟨rfl, rfl⟩ : g' = g ∧ u' = u := by omega
      exact wrote.unit
    · exact (units g' u' hu' (by omega)).keep hu hu' same wrote
  · have short := unitHeader_lt hu
    rw [wrote.outside a (fun i _ => by omega) (by omega) (by omega), fixed a ha]

theorem withBase_xaUnit (base ch n g u : Nat) (s : State) :
    xaUnit (Config.withBase base) ch n g u s = xaUnit Config.hw ch n g u s := by
  rw [xaUnit, xaUnit, withBase_adEncode]
  rfl

/-- The coding-info byte of R109. -/
theorem codingOf_eq {ch hz : Nat} (hch : ch = 1 ∨ ch = 2) (hhz : hz = 37800 ∨ hz = 18900) :
    codingOf Config.hw ch hz 4 = (if ch = 2 then 1 else 0) + (if hz = 18900 then 4 else 0) := by
  rcases hch with rfl | rfl <;> rcases hhz with rfl | rfl <;> decide

/-- The submode byte of an XA sector (R108). -/
def audioSubmode (last : Bool) : Nat := if last then 0xE5 else 0x64

/-- The coding-info byte of the settings, as R109 gives it. -/
def State.coding (s : State) : Nat :=
  (if s.cfg.channels.val = 2 then 1 else 0) + (if s.cfg.frequency.val = 18900 then 4 else 0)

theorem audioSubmode_le (last : Bool) : audioSubmode last ≤ 255 := by cases last <;> decide

theorem State.coding_le (s : State) : s.coding ≤ 255 := by
  rw [State.coding]
  split_ifs <;> omega

/-- The body of XA sector `n`: the subheader, the sound units and the zero tail. -/
structure State.XaBody (s : State) (n : Nat) (last : Bool) (read : Nat → Byte) : Prop where
  subheader : ∀ i, i < 8 → read (0x010 + i) = (twoSubheaders s.cfg.file.val s.cfg.channel.val
    (audioSubmode last) s.coding).getD i 0
  units : ∀ g u, g < 18 → u < 8 → UnitAt read (0x018 + 128 * g) u (s.xaBlock n g u)
  tail : ∀ i, i < 20 → read (0x918 + i) = 0

/-- What the sectors with sound ask of the settings (R322). -/
structure State.XaReady (s : State) : Prop where
  channels : s.cfg.channels.written = true
  mono : s.cfg.channels.val = 1 ∨ s.cfg.channels.val = 2
  frequency : s.cfg.frequency.written = true
  rate : s.cfg.frequency.val = 37800 ∨ s.cfg.frequency.val = 18900
  bits : s.cfg.bits.written = true
  depth : s.cfg.bits.val = 4
  file : s.cfg.file.written = true
  channel : s.cfg.channel.written = true

theorem xaSector_runs {s t : State} (base : Nat) {n : Nat} {last : Bool} (hs : s.XaReady) (hcfg : t.cfg = s.cfg)
    (hpcm : t.pcm = s.pcm) (hsize : t.sec.size = 2352) (hf : t.fault = false) (hchannels : s.XaChannels n 0 t) :
    ∃ v, xaSector (Config.withBase base) s.cfg.channels.val n last t = .next v ∧ v.fault = false ∧
      v = { t with ch := v.ch, cand := v.cand, best := v.best, adHdr := v.adHdr, adMse := v.adMse, adMin := v.adMin,
                   sec := v.sec } ∧ v.sec.size = 2352 ∧ v.sec.cells ≠ [] ∧ s.XaChannels (n + 1) 0 v ∧
      s.XaBody n last v.secByte := by
  obtain ⟨start, hstart⟩ : ∃ start, start = (t.putSec 0 (initBytes s.cfg.file.val s.cfg.channel.val
    (audioSubmode last) s.coding)).putSec 0x018 (List.replicate 2328 0) := ⟨_, rfl⟩
  have bytes : start.secByte = overlay (overlay t.secByte 0 (initBytes s.cfg.file.val s.cfg.channel.val
      (audioSubmode last) s.coding)) 0x018 (List.replicate 2328 0) := by
    rw [hstart, State.secByte_putSec_eq, State.secByte_putSec_eq]
  have frame : start = { t with sec := start.sec } := by rw [hstart]; rfl
  have size : start.sec.size = 2352 := by rw [hstart]; exact hsize
  have written : start.sec.cells ≠ [] := hstart ▸ State.putSec_written _ _ _
    (List.ne_nil_of_length_pos (by rw [List.length_replicate]; omega))
  have fault : start.fault = false := by rw [frame]; exact hf
  have cfg : start.cfg = s.cfg := by rw [frame]; exact hcfg
  have pcm : start.pcm = s.pcm := by rw [frame]; exact hpcm
  have channels : s.XaChannels n 0 start := fun d hd => by rw [← hchannels d hd, frame]; rfl
  obtain ⟨v, run, vfault, -, part⟩ := forEach_range_runs
    (P := fun g x => x.fault = false ∧ s.XaPart start n (8 * g) x) 18
    (f := fun g x => forEach (List.range 8) (fun u x => xaUnit (Config.withBase base) s.cfg.channels.val n g u x) x)
    (fun g x hg hx => by
      obtain ⟨y, run, fault, -, part⟩ := forEach_range_runs
        (P := fun u x => x.fault = false ∧ s.XaPart start n (8 * g + u) x) 8 (fun u x hu hx => by
          obtain ⟨y, run, fault, part⟩ := hx.2.next hs.channels hs.mono cfg pcm hg hu hx.1
          exact ⟨y, (withBase_xaUnit base _ n g u x).trans run, fault, fault, part⟩) x hx.1 hx
      exact ⟨y, run, fault, fault, part⟩) start fault
    ⟨fault, rfl, size, written, channels, fun _ _ _ h => absurd h (Nat.not_lt_zero _), fun _ _ => rfl⟩
  obtain ⟨vframe, vsize, vwritten, vchannels, units, fixed⟩ := part
  refine ⟨v, ?_, vfault, ?_, vsize, vwritten, fun d hd => ?_, ⟨fun i hi => ?_, fun g u hg hu => units g u hu (by omega),
    fun i hi => ?_⟩⟩
  · have submode : submodeOf (Config.withBase base) .audio last = audioSubmode last :=
      (show _ = submodeOf Config.hw .audio last from rfl).trans (by cases last <;> decide)
    have coding : codingOf (Config.withBase base) s.cfg.channels.val s.cfg.frequency.val 4 = s.coding :=
      (show _ = codingOf Config.hw _ _ _ from rfl).trans (codingOf_eq hs.mono hs.rate)
    have init := scInit_of_bytes (s := t) (audioSubmode_le last) s.coding_le (by rw [hcfg]; exact hs.file)
      (by rw [hcfg]; exact hs.channel)
    rw [hcfg] at init
    rw [xaSector, hcfg, need_written hs.frequency, need_written hs.bits, hs.depth, submode, coding, init,
      andThen_next_ok (show (t.putSec 0 _).fault = false from hf), ← hstart]
    exact run
  · rw [vframe, frame]
  · rw [← xaCount_sector hs.mono n hd]
    exact vchannels d hd
  · rw [fixed _ (by omega), bytes, overlay_outside _ (.inl (by omega)), overlay_initBytes _ _ _ _ _ hi]
  · rw [fixed _ (by omega), bytes, overlay_inside _ (by omega) (by rw [List.length_replicate]; omega)]
    exact List.getD_replicate _ (by omega)

/-! ## What a reader finds (R242, R285) -/

theorem edcLength_one : edcLength 1 = 0x808 := rfl

theorem edcLength_two : edcLength 2 = 0x91C := rfl

/-- The subheader of a finished sector in a string. -/
theorem SectorAt.subheader {x : List Byte} {o : Nat} {read : Nat → Byte} {header : List Byte} {form : Nat} {pq : Bool}
    {file channel submode coding : Nat} (hk : SectorKindOk header form pq)
    (h : SectorAt x o (finishedSector read header form pq))
    (hsub : ∀ i, i < 8 → read (0x010 + i) = (twoSubheaders file channel submode coding).getD i 0) :
    (x.drop o).take 8 = twoSubheaders file channel submode coding := by
  have long : 8 ≤ edcLength form := by rcases hk.known with rfl | rfl <;> decide
  refine (h.run (k := 0) (m := 8) (by omega)).trans (bytesOf_twoSubheaders fun i hi => ?_)
  rw [finishedSector_body hk (by omega) (by omega), hsub i hi]

theorem State.XaBody.payload {s : State} {n : Nat} {last : Bool} {read : Nat → Byte} {x : List Byte} {o : Nat}
    {header : List Byte} (hk : SectorKindOk header 2 false) (h : SectorAt x o (finishedSector read header 2 false))
    (body : s.XaBody n last read) : s.xaPayloadAt x o n := by
  have byte : ∀ k, k < 2324 → x.getD (o + 8 + k) 0 = read (0x018 + k) := fun k hk' => by
    rw [Nat.add_assoc, h.byte (by omega), finishedSector_body hk (by omega) (by rw [edcLength_two]; omega)]
    congr 1
    omega
  refine ⟨fun g u hg hu => ?_, fun i hi => ?_⟩
  · obtain ⟨first, second, lane⟩ := body.units g u hg hu
    have short := unitHeader_lt hu
    intro block p h header
    have place : h = o + 8 + (128 * g + unitHeader u) := Nat.add_assoc _ _ _
    refine ⟨?_, ?_, fun i hi => ?_⟩
    · rw [place, byte _ (by omega), ← Nat.add_assoc, first]
      rfl
    · rw [place, Nat.add_assoc _ _ 4, byte _ (by omega), ← Nat.add_assoc, ← Nat.add_assoc, second]
      rfl
    · rw [show p + 16 + 4 * i + u / 2 = o + 8 + (128 * g + 16 + 4 * i + u / 2) by omega, byte _ (by omega),
        show 0x018 + (128 * g + 16 + 4 * i + u / 2) = 0x018 + 128 * g + 16 + 4 * i + u / 2 by omega, lane i hi]
      rfl
  · rw [Nat.add_assoc, byte _ (by omega), ← body.tail i hi]
    congr 1
    omega

/-! ## MX.XA -/

theorem andThen_andThen_next (r : Result) (f : State → Result) :
    andThen r (fun s => andThen (.next s) f) = andThen r f := by
  cases r with
  | next s =>
    cases h : s.fault with
    | false => rw [andThen_next_ok h, andThen_next_ok h]
    | true => rw [andThen, andThen, if_pos h, if_pos h]
  | fault e => rfl
  | refused e => rfl

/-- The header bytes of a sector in a stream. -/
def stampOf (stamp : Prop) [Decidable stamp] (m : Nat) : List Byte := if stamp then headerBytes m else []

theorem stampOf_kind (stamp : Prop) [Decidable stamp] (m : Nat) {form : Nat} {pq : Bool} (hform : form = 1 ∨ form = 2)
    (hpq : pq = true → form = 1) : SectorKindOk (stampOf stamp m) form pq := by
  refine ⟨?_, hform, hpq⟩
  rw [stampOf]
  split_ifs
  · exact le_rfl
  · exact Nat.zero_le _

/-- The size of a sector of MX.XA (R285). -/
def State.xaSize (s : State) : Nat := if s.cfg.format.val = .xacd then 2352 else 2336

theorem State.xaSize_cases (s : State) : s.xaSize = 2352 ∨ s.xaSize = 2336 := by
  rw [State.xaSize]
  split_ifs
  · exact .inl rfl
  · exact .inr rfl

/-- The bytes of sector `j` of MX.XA. -/
def State.XaSector (s : State) (base sectors j : Nat) (y : List Byte) : Prop :=
  ∃ read, s.XaBody j (decide (j + 1 = sectors)) read ∧
    y = bytesOf (finishedSector read (stampOf (s.cfg.format.val = .xacd) (j + base)) 2 false) (2352 - s.xaSize) s.xaSize

/-- MX.XA after `n` of its sectors. -/
structure State.XaStream (s : State) (base sectors n : Nat) (t : State) : Prop where
  frame : t = { s with ch := t.ch, cand := t.cand, best := t.best, adHdr := t.adHdr, adMse := t.adMse, adMin := t.adMin,
                       sec := t.sec, sink := t.sink, phase := t.phase, fcFrameIndex := Config.hw.firstFrame }
  size : t.sec.size = 2352
  channels : s.XaChannels n 0 t
  emitted : ∃ x, t.sink = s.sink ++ x ∧ Sectors x s.xaSize n (s.XaSector base sectors)

theorem State.XaStream.setPhase {s t : State} {base sectors n : Nat} (h : s.XaStream base sectors n t) (p : Phase) :
    s.XaStream base sectors n (t.setPhase p) := by
  obtain ⟨frame, size, channels, emitted⟩ := h
  refine ⟨?_, size, channels, emitted⟩
  rw [State.setPhase, frame]

/-- Sector `n` is the last exactly if the samples end in it (R285). -/
theorem lastSector {total per n : Nat} (hper : 0 < per) (hn : n < (total + per - 1) / per) :
    decide (total ≤ (n + 1) * per) = decide (n + 1 = (total + per - 1) / per) := by
  have covered := Nat.div_le_iff_le_mul_add_pred (a := total + per - 1) (c := n + 1) hper
  rw [Nat.mul_comm per] at covered
  exact decide_eq_decide.2 (by omega)

theorem State.XaStream.next {s t : State} {base sectors n total : Nat} (hs : s.XaReady) (hb : s.tbuilt = true)
    (htime : s.cfg.format.val = .xacd → n + base < 450000)
    (hsectors : sectors = (total + 4032 / s.cfg.channels.val - 1) / (4032 / s.cfg.channels.val)) (hn : n < sectors)
    (hf : t.fault = false) (h : s.XaStream base sectors n t) :
    ∃ u, xaChunk (Config.withBase base) s.cfg.format.val s.cfg.channels.val total n t = .next u ∧ u.fault = false ∧
      s.XaStream base sectors (n + 1) u := by
  obtain ⟨frame, size, channels, x, sink, emitted⟩ := h
  have per : samplesPerSector (Config.withBase base) s.cfg.channels.val = 4032 / s.cfg.channels.val :=
    samplesPerSector_eq hs.mono
  have pos : 0 < 4032 / s.cfg.channels.val := by rcases hs.mono with h | h <;> rw [h] <;> decide
  have last : decide (total ≤ (n + 1) * (4032 / s.cfg.channels.val)) = decide (n + 1 = sectors) := by
    rw [hsectors]
    exact lastSector pos (hsectors ▸ hn)
  obtain ⟨v, run, fault, vframe, vsize, written, vchannels, body⟩ := xaSector_runs base (n := n)
    (last := decide (n + 1 = sectors)) hs (by rw [frame]) (by rw [frame]) size hf channels
  obtain ⟨u, ended, ufault, uframe, saved, usize, usink⟩ := sectorEnd_runs base (n := n) (form := 2) (size := s.xaSize)
    (stamp := s.cfg.format.val = .xacd) (pq := False) fault (by rw [vframe, frame]; exact hb) written (.inr rfl)
    s.xaSize_cases htime
  simp only [if_neg not_false, andThen_andThen_next] at ended
  refine ⟨u, ?_, ufault, ?_, usize.trans vsize, fun d hd => ?_, x ++ _, ?_,
    emitted.append (bytesOf_length _ _ _) ⟨v.secByte, body, rfl⟩⟩
  · rw [xaChunk, per, last, run, andThen_next_ok fault]
    exact ended
  · rw [uframe, saved not_false, vframe, frame]
  · rw [← vchannels d hd, uframe]
    rfl
  · rw [usink, ← List.append_assoc, ← sink, vframe]
    rfl

theorem State.StreamReady.xaReady {s : State} (hs : s.StreamReady)
    (hformat : s.cfg.format.val = .xa ∨ s.cfg.format.val = .xacd ∨ s.cfg.format.val = .str2 ∨ s.cfg.format.val = .str2cd) :
    s.XaReady := by
  obtain ⟨-, mono, -⟩ := hs.valid 3 (by decide) (by decide)
  obtain ⟨-, rate⟩ := hs.valid 4 (by decide) (by decide)
  obtain ⟨file, channel⟩ := hs.written.sector (by rcases hformat with h | h | h | h <;> rw [h] <;> rfl)
  exact ⟨hs.written.channels, mono hformat, hs.written.frequency, rate hformat, hs.written.bits,
    hs.valid 2 (by decide) (by decide), file, channel⟩

/-- No block is encoded when the stream starts. -/
theorem State.Started.xaChannels {s t : State} (hs : s.XaReady) (h : s.Started t) : s.XaChannels 0 0 t := fun d hd => by
  have none : xaCount s.cfg.channels.val 0 0 d = 0 := by
    rw [xaCount]
    rcases hs.mono with h | h <;> rw [h] at hd ⊢ <;> omega
  rw [h.zero d hd, none]
  rfl

theorem mxXa_runs {s : State} {base : Nat} (hs : s.StreamReady) (hsize : s.sec.size = 2352) (hb : s.tbuilt = true)
    (hformat : s.cfg.format.val = .xa ∨ s.cfg.format.val = .xacd) :
    let per := 4032 / s.cfg.channels.val
    let sectors := (s.pcm.length / s.cfg.channels.val + per - 1) / per
    (s.cfg.format.val = .xacd → ∀ n, n < sectors → n + base < 450000) →
    ∃ t, mxXa (Config.withBase base) s = .next t ∧ t.fault = false ∧ t.phase = .done ∧
      s.XaStream base sectors sectors t := by
  intro per sectors htime
  have ready := hs.xaReady (hformat.imp_right .inl)
  obtain ⟨u, start, fault, started⟩ := startStream_runs hs
  obtain ⟨cfg, pcm⟩ := started.input
  have total := samplesPerChannel_eq hs pcm
  have pos : 0 < 4032 / s.cfg.channels.val := by rcases ready.mono with h | h <;> rw [h] <;> decide
  have count : ceilDiv (s.pcm.length / s.cfg.channels.val) (samplesPerSector (Config.withBase base) s.cfg.channels.val) =
      sectors := (congrArg (ceilDiv _) (samplesPerSector_eq ready.mono)).trans (ceilDiv_of_pos pos)
  have first : s.XaStream base sectors 0 u := by
    have channels := started.xaChannels ready
    obtain ⟨frame, -⟩ := started
    refine ⟨?_, ?_, channels, [], ?_, .nil⟩
    · rw [frame]
    · rw [frame]
      exact hsize
    · rw [frame]
      exact (List.append_nil _).symm
  obtain ⟨t, run, tfault, phase, done⟩ := chunkLoop_runs (P := fun n t => s.XaStream base sectors n t)
    (body := xaChunk (Config.withBase base) s.cfg.format.val s.cfg.channels.val (s.pcm.length / s.cfg.channels.val)) sectors
    (fun n t p h => h.setPhase p) (fun n t hn tf h => h.next ready hb (fun hx => htime hx n hn) rfl hn tf) u fault first
  refine ⟨t, ?_, tfault, phase, done⟩
  rw [mxXa, withBase_startStream, start, andThen_next_ok fault, cfg, need_written hs.written.format,
    need_written hs.written.channels]
  simp only [total]
  rw [count]
  exact run

/-- The sub-header bytes of a sector whose settings are bytes (R322). -/
theorem State.StreamReady.subheaderAt {s : State} (hs : s.StreamReady) (ready : s.XaReady) {x : List Byte}
    {o submode coding : Nat} (hsub : submode ≤ 255) (hcod : coding ≤ 255)
    (h : (x.drop o).take 8 = twoSubheaders s.cfg.file.val s.cfg.channel.val submode coding) :
    s.subheaderAt x o (BitVec.ofNat 8 submode) (BitVec.ofNat 8 coding) := by
  obtain ⟨file, channel, -⟩ := hs.valid 7 (by decide) (by decide)
  exact h.trans (twoSubheaders_eq (file ready.file) (channel ready.channel) hsub hcod)

theorem audioSubmode_byte (p : Prop) [Decidable p] :
    BitVec.ofNat 8 (audioSubmode (decide p)) = if p then (0xE5 : Byte) else 0x64 := by
  rw [audioSubmode]
  by_cases h : p
  · rw [if_pos h, if_pos (decide_eq_true h)]
    rfl
  · rw [if_neg h, if_neg (by simpa using h)]
    rfl

/-- Settles O50: sector after sector, each finished over its sound units. -/
theorem xaStreamIsWholeSectors : Obligations.XaStreamIsWholeSectors := by
  intro s base hs hmem hb hformat ch sectors size htime
  obtain ⟨-, -, -, -, -, -, hsize, -⟩ := hmem
  have ready := hs.xaReady (hformat.imp_right .inl)
  obtain ⟨t, run, fault, phase, frame, -, -, x, sink, emitted⟩ := mxXa_runs hs hsize hb hformat htime
  refine ⟨t, x, run, fun h => ?_, phase, fault, sink, emitted.length.trans (Nat.mul_comm _ _), fun n hn => ?_, ?_⟩
  · rw [h, withBase_hw] at run
    exact (unlessFaulted_ok hs.fault _).trans run
  · obtain ⟨read, body, sector⟩ := emitted.each n hn
    have kind := stampOf_kind (s.cfg.format.val = .xacd) (n + base) (form := 2) (pq := false) (.inr rfl) (by decide)
    rw [Nat.mul_comm s.xaSize] at sector
    have placed := sectorAt_of_run s.xaSize_cases sector
    refine ⟨?_, body.payload kind placed, placed.edcAt kind, fun h => ?_⟩
    · rw [← audioSubmode_byte]
      exact hs.subheaderAt ready (audioSubmode_le _) s.coding_le (placed.subheader kind body.subheader)
    · have whole : s.xaSize = 2352 := if_pos h
      have stamped : stampOf (s.cfg.format.val = .xacd) (n + base) = headerBytes (n + base) := if_pos h
      rw [whole, stamped] at sector
      rw [stamped] at kind
      have header := header_of_run sector
      rw [finishedSector_headerBytes kind] at header
      rw [show size = 2352 from if_pos h]
      exact header
  · rw [← phase]
    exact frame

end Sys2Proof.Machine
end

section
/-! SUPPORT. STR groups (spec/44_stream_sequencing.md R293): a frame's chunks do not depend on what ran before, one
sector, one group, the stream: O51. -/

namespace Sys2Proof.Machine

/-! ## The chunks of a frame depend on the picture, the settings and the frame counter alone -/

theorem wordBits_injective {v w : BitVec 16} (h : wordBits v 16 = wordBits w 16) : v = w := by
  refine BitVec.eq_of_getLsbD_eq fun i hi => ?_
  have bit := congrArg (fun l => l.getD (15 - i) false) h
  simp only [wordBits] at bit
  rw [getD_map_range_of_lt _ _ (by omega), getD_map_range_of_lt _ _ (by omega), show 15 - (15 - i) = i by omega] at bit
  exact bit

theorem append_bytes_injective {a b c d : Byte} (h : (a ++ b : BitVec 16) = c ++ d) : a = c ∧ b = d := by
  have bit := fun i => congrArg (fun w : BitVec 16 => w.getLsbD i) h
  simp only [BitVec.getLsbD_append] at bit
  refine ⟨BitVec.eq_of_getLsbD_eq fun i hi => ?_, BitVec.eq_of_getLsbD_eq fun i hi => ?_⟩
  · have high := bit (8 + i)
    rwa [if_neg (by omega), if_neg (by omega), Nat.add_sub_cancel_left] at high
  · have low := bit i
    rwa [if_pos hi, if_pos hi] at low

theorem streamBits_nil : streamBits [] = [] := by rw [streamBits]; simp

/-- Whole words are read back from their bits. -/
theorem streamBits_injective :
    ∀ {a b : List Byte}, a.length % 2 = 0 → b.length % 2 = 0 → streamBits a = streamBits b → a = b
  | [], b, _, hb, h => by
    have length := congrArg List.length h
    rw [streamBits_length hb, streamBits_nil, List.length_nil] at length
    exact (List.length_eq_zero_iff.1 (by omega)).symm
  | [_], _, ha, _, _ => absurd ha (by simp)
  | lo :: hi :: a, b, ha, hb, h => by
    have even : a.length % 2 = 0 := by simp only [List.length_cons] at ha; omega
    have length := congrArg List.length h
    rw [streamBits_length ha, streamBits_length hb] at length
    match b, hb, h, length with
    | [], _, _, length => simp at length
    | [_], hb, _, _ => exact absurd hb (by simp)
    | lo' :: hi' :: b, hb, h, _ =>
      have even' : b.length % 2 = 0 := by simp only [List.length_cons] at hb; omega
      rw [streamBits_cons, streamBits_cons] at h
      obtain ⟨word, rest⟩ := List.append_inj h (by rw [wordBits_length, wordBits_length])
      obtain ⟨rfl, rfl⟩ := append_bytes_injective (wordBits_injective word)
      rw [streamBits_injective even even' rest]

theorem State.frameBlocks_congr {s t : State} (hcfg : t.cfg = s.cfg) (hrgba : t.rgba = s.rgba) (n : Nat) :
    t.frameBlocks n = s.frameBlocks n := by
  have pixel : t.pixel = s.pixel := by
    unfold State.pixel State.rgbaByte
    rw [hrgba]
  have sums : t.pixelSum = s.pixelSum := by
    unfold State.pixelSum
    rw [pixel]
  unfold State.frameBlocks macroblock lumaBlock chromaBlock
  rw [hcfg, pixel, sums]

theorem State.bits_of_empty {s : State} (h : s.bwAcc = 0 ∧ s.bwLeft = 16) : s.bits = streamBits s.out := by
  rw [State.bits, h.2]
  exact List.append_nil _

theorem chunkHeader_congr {s t : State} (hindex : t.fcFrameIndex = s.fcFrameIndex) (hout : t.out = s.out)
    (hwords : t.fcWords = s.fcWords) (hq : t.fcQscale = s.fcQscale) (w h j : Nat) :
    chunkHeader Config.hw t w h j = chunkHeader Config.hw s w h j := by
  unfold chunkHeader
  rw [hindex, hout, hwords, hq]

section
variable {s s' t t' : State} {n : Nat} (h : s.FrameDone t n) (h' : s'.FrameDone t' n) (hcfg : s'.cfg = s.cfg)
  (hrgba : s'.rgba = s.rgba)
include h h' hcfg hrgba

theorem State.FrameDone.blockAt_eq {key : Nat} (hk : key < 6 * nmb s.cfg.width.val s.cfg.height.val) :
    blockAt t'.fbc key = blockAt t.fbc key := by
  rw [blockAt, blockAt, h.copies key hk, h'.copies key (by rwa [hcfg]), State.frameBlocks_congr hcfg hrgba, hcfg]

/-- Two runs on one frame leave the same packed stream. -/
theorem State.FrameDone.out_eq : t'.out = t.out := by
  obtain ⟨pad, hpad, bits⟩ := h.bits
  obtain ⟨pad', hpad', bits'⟩ := h'.bits
  have packed : bitsBelow t'.fbc (6 * nmb s.cfg.width.val s.cfg.height.val) =
      bitsBelow t.fbc (6 * nmb s.cfg.width.val s.cfg.height.val) := List.flatMap_congr fun key hk => by
    rw [State.FrameDone.blockAt_eq h h' hcfg hrgba (List.mem_range.1 hk)]
  rw [hcfg, packed, State.bits_of_empty h'.empty] at bits'
  rw [State.bits_of_empty h.empty] at bits
  have even : t.out.length % 2 = 0 := h.out
  have even' : t'.out.length % 2 = 0 := h'.out
  have same : pad' = pad := by
    have length := congrArg List.length bits
    have length' := congrArg List.length bits'
    simp only [streamBits_length even, streamBits_length even', List.length_append, fieldBits_length,
      List.length_replicate] at length length'
    omega
  rw [same, ← bits] at bits'
  exact streamBits_injective even' even bits'

/-- Two runs on one frame, with one frame counter, leave the same chunks. -/
theorem State.FrameDone.dmxByte_eq (hindex : s'.fcFrameIndex = s.fcFrameIndex) (hq : s'.fcQscale = s.fcQscale) {a : Nat}
    (ha : a < 14336) : t'.dmxByte a = t.dmxByte a := by
  have words : wordsBelow t'.fbc (6 * nmb s.cfg.width.val s.cfg.height.val) =
      wordsBelow t.fbc (6 * nmb s.cfg.width.val s.cfg.height.val) :=
    congrArg List.sum (List.map_congr_left fun key hk => by
      rw [State.FrameDone.blockAt_eq h h' hcfg hrgba (List.mem_range.1 hk)])
  have out := State.FrameDone.out_eq h h' hcfg hrgba
  have scale : t.fcQscale = s.fcQscale := by rw [h.frame]
  have scale' : t'.fcQscale = s'.fcQscale := by rw [h'.frame]
  have header := fun j => chunkHeader_congr (s := { t with fcFrameIndex := s.fcFrameIndex })
    (t := { t' with fcFrameIndex := s'.fcFrameIndex }) hindex out
    (by show t'.fcWords = t.fcWords; rw [h.words, h'.words, hcfg, words])
    (by show t'.fcQscale = t.fcQscale; rw [scale, scale', hq]) s.cfg.width.val s.cfg.height.val j
  have slot := h.slots (a / 2048) (a % 2048) (by omega) (by omega)
  have slot' := h'.slots (a / 2048) (a % 2048) (by omega) (by omega)
  rw [Nat.div_add_mod] at slot slot'
  rw [slot, slot', hcfg, header, out]

end

/-! ## A video sector (R216, R293) -/

/-- The submode byte of a video sector (R108). -/
def videoSubmode (last : Bool) : Nat := if last then 0xC9 else 0x48

theorem videoSubmode_le (last : Bool) : videoSubmode last ≤ 255 := by cases last <;> decide

/-- The bytes of the chunks VD.FRAME leaves of frame `g` when `g` frames were counted. -/
def State.FrameSlots (s : State) (g : Nat) (byte : Nat → Byte) : Prop :=
  ∃ u, exec (.vdFrame g) { s with fcFrameIndex := Config.hw.firstFrame + g } = .next u ∧ u.fault = false ∧
    ∀ a, a < 14336 → byte a = u.dmxByte a

/-- The body of a video sector: the subheader, chunk `j` of the frame, the zero tail. -/
structure State.VideoBody (s : State) (g j : Nat) (last : Bool) (read : Nat → Byte) : Prop where
  subheader : ∀ i, i < 8 →
    read (0x010 + i) = (twoSubheaders s.cfg.file.val s.cfg.channel.val (videoSubmode last) 0).getD i 0
  payload : ∃ byte, s.FrameSlots g byte ∧ ∀ k, k < 2048 → read (0x018 + k) = byte (2048 * j + k)
  tail : ∀ k, k < 280 → read (0x818 + k) = 0

theorem strVideoSector_runs {s t : State} (base : Nat) {g j : Nat} {last : Bool} (hs : s.XaReady) (hcfg : t.cfg = s.cfg)
    (hslots : s.FrameSlots g t.dmxByte) (hf : t.fault = false) :
    ∃ v, strVideoSector (Config.withBase base) j last t = .next v ∧ v.fault = false ∧ v = { t with sec := v.sec } ∧
      v.sec.size = t.sec.size ∧ v.sec.cells ≠ [] ∧ s.VideoBody g j last v.secByte := by
  obtain ⟨u, hu⟩ : ∃ u, u = t.putSec 0 (initBytes s.cfg.file.val s.cfg.channel.val (videoSubmode last) 0) := ⟨_, rfl⟩
  have dmx : u.dmxByte = t.dmxByte := by rw [hu]; rfl
  obtain ⟨v, hv⟩ : ∃ v, v = (u.putSec 0x018 (bytesOf u.dmxByte (2048 * j) 2048)).putSec 0x818 (List.replicate 280 0) :=
    ⟨_, rfl⟩
  have bytes : v.secByte = overlay (overlay (overlay t.secByte 0 (initBytes s.cfg.file.val s.cfg.channel.val
      (videoSubmode last) 0)) 0x018 (bytesOf t.dmxByte (2048 * j) 2048)) 0x818 (List.replicate 280 0) := by
    rw [hv, State.secByte_putSec_eq, State.secByte_putSec_eq, dmx, hu, State.secByte_putSec_eq]
  have payload : (bytesOf t.dmxByte (2048 * j) 2048).length = 2048 := bytesOf_length _ _ _
  have tail : (List.replicate 280 (0 : Byte)).length = 280 := List.length_replicate
  have submode : submodeOf (Config.withBase base) .video last = videoSubmode last :=
    (show _ = submodeOf Config.hw .video last from rfl).trans (by cases last <;> decide)
  have init := scInit_of_bytes (s := t) (coding := 0) (videoSubmode_le last) (by omega) (by rw [hcfg]; exact hs.file)
    (by rw [hcfg]; exact hs.channel)
  rw [hcfg] at init
  refine ⟨v, ?_, by rw [hv, hu]; exact hf, by rw [hv, hu]; rfl, by rw [hv, hu]; rfl,
    hv ▸ State.putSec_written _ _ _ (List.ne_nil_of_length_pos (by rw [tail]; omega)),
    ⟨fun i hi => ?_, ⟨_, hslots, fun k hk => ?_⟩, fun k hk => ?_⟩⟩
  · rw [strVideoSector, submode, init, ← hu, andThen_next_ok (show u.fault = false by rw [hu]; exact hf), hv]
    rfl
  · rw [bytes, overlay_outside _ (.inl (by omega)), overlay_outside _ (.inl (by omega)), overlay_initBytes _ _ _ _ _ hi]
  · rw [bytes, overlay_outside _ (.inl (by omega)), overlay_inside _ (by omega) (by rw [payload]; omega),
      Nat.add_sub_cancel_left, bytesOf_getD _ _ hk]
  · rw [bytes, overlay_inside _ (by omega) (by rw [tail]; omega)]
    exact List.getD_replicate _ (by omega)

/-! ## A group and the stream (R293) -/

/-- The size of a sector of MX.STR (R293). -/
def State.strSize (s : State) : Nat := if s.cfg.format.val = .str2cd then 2352 else 2336

theorem State.strSize_cases (s : State) : s.strSize = 2352 ∨ s.strSize = 2336 := by
  rw [State.strSize]
  split_ifs
  · exact .inl rfl
  · exact .inr rfl

/-- The bytes of sector `n` of MX.STR: the sound of its group in the audio slot, else a chunk of its frame. -/
structure State.StrSector (s : State) (base frames n : Nat) (y : List Byte) : Prop where
  audio : n % 8 = Config.hw.audioSlot → ∃ read, s.XaBody (n / 8) (decide (n + 1 = 8 * frames)) read ∧
    y = bytesOf (finishedSector read (headerBytes (n + base)) 2 false) (2352 - s.strSize) s.strSize
  video : n % 8 ≠ Config.hw.audioSlot → ∃ read, s.VideoBody (n / 8)
      (if n % 8 < Config.hw.audioSlot then n % 8 else n % 8 - 1) (decide (n + 1 = 8 * frames)) read ∧
    y = bytesOf (finishedSector read (headerBytes (n + base)) 1 (decide (s.cfg.format.val = .str2cd)))
      (2352 - s.strSize) s.strSize

/-- MX.STR after `n` sectors, `index` frames and the sound of `count` sectors. -/
structure State.StrPart (s : State) (base frames index count n : Nat) (t : State) : Prop where
  frame : t = { s with ch := t.ch, cand := t.cand, best := t.best, adHdr := t.adHdr, adMse := t.adMse, adMin := t.adMin,
                       mb := t.mb, fb := t.fb, fbc := t.fbc, bwAcc := t.bwAcc, bwLeft := t.bwLeft, out := t.out,
                       fcWords := t.fcWords, dmx := t.dmx, sec := t.sec, tsSave := t.tsSave, sink := t.sink,
                       phase := t.phase, fcFrameIndex := Config.hw.firstFrame + index }
  size : t.sec.size = 2352
  channels : s.XaChannels count 0 t
  emitted : ∃ x, t.sink = s.sink ++ x ∧ Sectors x s.strSize n (s.StrSector base frames)

/-- What MX.STR asks of its settings, its frames and its sector numbers. -/
structure State.StrReady (s : State) (base frames : Nat) : Prop where
  fault : s.fault = false
  xa : s.XaReady
  built : s.tbuilt = true
  width : s.cfg.width.written = true
  height : s.cfg.height.written = true
  wide : 0 < s.cfg.width.val ∧ s.cfg.width.val % 16 = 0
  high : 0 < s.cfg.height.val ∧ s.cfg.height.val % 16 = 0
  room : ∀ n, n < frames → s.FrameRoom n
  inside : ∀ n, n < frames → frameEnd s.cfg.width.val s.cfg.height.val n ≤ s.rgba.size
  time : ∀ n, n < 8 * frames → n + base < 450000

theorem State.FrameRoom.congr {s t : State} {n : Nat} (hcfg : t.cfg = s.cfg) (hrgba : t.rgba = s.rgba)
    (h : s.FrameRoom n) : t.FrameRoom n := by
  unfold State.FrameRoom at h ⊢
  rwa [State.frameBlocks_congr hcfg hrgba, hcfg]

/-- The frame of a group. -/
theorem State.StrPart.encodeFrame {s t : State} {base frames g : Nat} (hs : s.StrReady base frames) (hg : g < frames)
    (hf : t.fault = false) (h : s.StrPart base frames g g (8 * g) t) :
    ∃ u, vdFrame (Config.withBase base) g t = .next u ∧ u.fault = false ∧ s.StrPart base frames (g + 1) g (8 * g) u ∧
      s.FrameSlots g u.dmxByte := by
  obtain ⟨frame, size, channels, x, sink, emitted⟩ := h
  have cfg : t.cfg = s.cfg := by rw [frame]
  have rgba : t.rgba = s.rgba := by rw [frame]
  have index : t.fcFrameIndex = Config.hw.firstFrame + g := by rw [frame]
  have scale : t.fcQscale = s.fcQscale := by rw [frame]
  obtain ⟨u, run, fault, done⟩ := vdFrame_runs (s := t) (n := g) hf (by rw [cfg]; exact hs.width)
    (by rw [cfg]; exact hs.height) (by rw [cfg]; exact hs.wide) (by rw [cfg]; exact hs.high)
    ((hs.room g hg).congr cfg rgba) (by rw [cfg, rgba]; exact hs.inside g hg)
  obtain ⟨v, alone, vfault, vdone⟩ := vdFrame_runs (s := { s with fcFrameIndex := Config.hw.firstFrame + g }) (n := g)
    hs.fault hs.width hs.height hs.wide hs.high (hs.room g hg) (hs.inside g hg)
  have uframe := done.frame
  refine ⟨u, (withBase_vdFrame base g t).trans run, fault, ⟨?_, ?_, fun d hd => ?_, x, ?_, emitted⟩, v,
    (exec_vdFrame g (s := { s with fcFrameIndex := Config.hw.firstFrame + g }) hs.fault).trans alone, vfault, fun a ha => ?_⟩
  · rw [uframe, frame]
    rfl
  · rw [uframe]
    exact size
  · rw [← channels d hd, uframe]
    rfl
  · rw [uframe]
    exact sink
  · exact State.FrameDone.dmxByte_eq vdone done cfg rgba index scale ha

/-- Sectors of sound before sector `i` of group `g`. -/
def soundCount (g i : Nat) : Nat := g + if Config.hw.audioSlot < i then 1 else 0

/-- The body of sector `i` of group `g`, sound or picture. -/
theorem State.StrPart.body {s t : State} {base frames index n g i : Nat} {last : Bool} (hs : s.StrReady base frames)
    (hf : t.fault = false) (h : s.StrPart base frames index (soundCount g i) n t) (hslots : s.FrameSlots g t.dmxByte) :
    ∃ v, (if (i == Config.hw.audioSlot) = true then xaSector (Config.withBase base) s.cfg.channels.val g last t
        else strVideoSector (Config.withBase base) (if i < Config.hw.audioSlot then i else i - 1) last t) = .next v ∧
      v.fault = false ∧ v.sec.cells ≠ [] ∧ v.dmxByte = t.dmxByte ∧ v.sink = t.sink ∧
      s.StrPart base frames index (soundCount g (i + 1)) n v ∧
      (i = Config.hw.audioSlot → s.XaBody g last v.secByte) ∧
      (i ≠ Config.hw.audioSlot → s.VideoBody g (if i < Config.hw.audioSlot then i else i - 1) last v.secByte) := by
  obtain ⟨frame, size, channels, x, sink, emitted⟩ := h
  have cfg : t.cfg = s.cfg := by rw [frame]
  have pcm : t.pcm = s.pcm := by rw [frame]
  by_cases hi : i = Config.hw.audioSlot
  · have before : soundCount g i = g := by rw [soundCount, if_neg (by omega), Nat.add_zero]
    have after : soundCount g (i + 1) = g + 1 := by rw [soundCount, if_pos (by omega)]
    rw [before] at channels
    obtain ⟨v, run, fault, vframe, vsize, written, vchannels, body⟩ := xaSector_runs base (n := g) (last := last) hs.xa cfg
      pcm size hf channels
    have dmx : v.dmxByte = t.dmxByte := by rw [vframe]; rfl
    have vsink : v.sink = t.sink := by rw [vframe]
    rw [if_pos (beq_iff_eq.2 hi), after]
    refine ⟨v, run, fault, written, dmx, vsink, ⟨?_, vsize, vchannels, x, vsink.trans sink, emitted⟩, fun _ => body,
      fun h => absurd hi h⟩
    rw [vframe, frame]
  · have same : soundCount g (i + 1) = soundCount g i := by
      rw [soundCount, soundCount]
      split_ifs <;> omega
    obtain ⟨v, run, fault, vframe, vsize, written, body⟩ := strVideoSector_runs base (g := g)
      (j := if i < Config.hw.audioSlot then i else i - 1) (last := last) hs.xa cfg hslots hf
    have dmx : v.dmxByte = t.dmxByte := by rw [vframe]; rfl
    have vsink : v.sink = t.sink := by rw [vframe]
    rw [if_neg (fun h => hi (beq_iff_eq.1 h)), same]
    refine ⟨v, run, fault, written, dmx, vsink, ⟨?_, vsize.trans size, fun d hd => ?_, x, vsink.trans sink, emitted⟩,
      fun h => absurd h hi, fun _ => body⟩
    · rw [vframe, frame]
    · rw [← channels d hd, vframe]
      rfl

/-- One sector of a group. -/
theorem State.StrPart.sector {s t : State} {base frames g i : Nat} (hs : s.StrReady base frames) (hg : g < frames)
    (hi : i < 8) (hf : t.fault = false) (h : s.StrPart base frames (g + 1) (soundCount g i) (8 * g + i) t)
    (hslots : s.FrameSlots g t.dmxByte) :
    ∃ u, strSector (Config.withBase base) s.cfg.format.val s.cfg.channels.val g i (g + 1 == frames && i + 1 == 8) t =
        .next u ∧ u.fault = false ∧ s.StrPart base frames (g + 1) (soundCount g (i + 1)) (8 * g + (i + 1)) u ∧
      s.FrameSlots g u.dmxByte := by
  have last : (g + 1 == frames && i + 1 == 8) = decide (8 * g + i + 1 = 8 * frames) := by
    rw [show (g + 1 == frames) = decide (g + 1 = frames) from rfl, show (i + 1 == 8) = decide (i + 1 = 8) from rfl,
      ← Bool.decide_and]
    exact decide_eq_decide.2 (by omega)
  have group : (8 * g + i) / 8 = g ∧ (8 * g + i) % 8 = i := by omega
  rw [last]
  obtain ⟨v, run, fault, written, dmx, -, part, sound, picture⟩ :=
    h.body (last := decide (8 * g + i + 1 = 8 * frames)) hs hf hslots
  obtain ⟨frame, size, channels, x, sink, emitted⟩ := part
  obtain ⟨u, ended, ufault, uframe, -, usize, usink⟩ := sectorEnd_runs base (n := 8 * g + i)
    (form := if (i == Config.hw.audioSlot) = true then 2 else 1) (size := s.strSize) (stamp := True)
    (pq := s.cfg.format.val = .str2cd ∧ (i == Config.hw.audioSlot) = false) fault (by rw [frame]; exact hs.built) written
    (by split_ifs; exacts [.inr rfl, .inl rfl]) s.strSize_cases fun _ => hs.time _ (by omega)
  rw [if_pos trivial] at usink
  have udmx : u.dmxByte = t.dmxByte := by rw [← dmx, uframe]; rfl
  obtain ⟨y, hy⟩ : ∃ y, y = bytesOf (finishedSector v.secByte (headerBytes (8 * g + i + base))
    (if (i == Config.hw.audioSlot) = true then 2 else 1)
    (decide (s.cfg.format.val = .str2cd ∧ (i == Config.hw.audioSlot) = false))) (2352 - s.strSize) s.strSize := ⟨_, rfl⟩
  rw [← hy] at usink
  have wrote : s.StrSector base frames (8 * g + i) y := by
    refine ⟨fun hslot => ?_, fun hslot => ?_⟩
    · rw [group.2] at hslot
      rw [group.1]
      have audio : (i == Config.hw.audioSlot) = true := beq_iff_eq.2 hslot
      refine ⟨v.secByte, sound hslot, ?_⟩
      rw [hy, if_pos audio, decide_eq_false (fun h => by rw [audio] at h; cases h.2)]
    · rw [group.2] at hslot
      rw [group.1, group.2]
      have silent : (i == Config.hw.audioSlot) = false := beq_eq_false_iff_ne.2 hslot
      refine ⟨v.secByte, picture hslot, ?_⟩
      rw [hy, if_neg (by rw [silent]; decide), decide_eq_decide.2 (and_iff_left silent)]
  refine ⟨u, ?_, ufault, ⟨?_, usize.trans size, fun d hd => ?_, x ++ y, ?_,
    emitted.append (by rw [hy, bytesOf_length]) wrote⟩, udmx ▸ hslots⟩
  · rw [strSector]
    refine Eq.trans ?_ ended
    exact (congrArg (andThen · _) run).trans (andThen_next_ok fault _)
  · rw [uframe, frame]
  · rw [← channels d hd, uframe]
    rfl
  · rw [usink, ← List.append_assoc, ← sink]

/-- One group. -/
theorem State.StrPart.group {s t : State} {base frames g : Nat} (hs : s.StrReady base frames) (hg : g < frames)
    (hf : t.fault = false) (h : s.StrPart base frames g g (8 * g) t) :
    ∃ u, strGroup (Config.withBase base) s.cfg.format.val s.cfg.channels.val frames g t = .next u ∧ u.fault = false ∧
      s.StrPart base frames (g + 1) (g + 1) (8 * (g + 1)) u := by
  obtain ⟨v, run, fault, part, slots⟩ := h.encodeFrame hs hg hf
  have begun : soundCount g 0 = g := by rw [soundCount, if_neg (Nat.not_lt_zero _), Nat.add_zero]
  have ended : soundCount g 8 = g + 1 := by rw [soundCount, if_pos hw_audioSlot_lt]
  obtain ⟨u, sectors, ufault, -, upart, -⟩ := forEach_range_runs
    (P := fun i x => x.fault = false ∧ s.StrPart base frames (g + 1) (soundCount g i) (8 * g + i) x ∧
      s.FrameSlots g x.dmxByte) 8
    (f := fun i x => strSector (Config.withBase base) s.cfg.format.val s.cfg.channels.val g i
      (g + 1 == frames && i + 1 == 8) x) (fun i x hi ⟨hx, hpart, hslots⟩ => by
      obtain ⟨y, run, fault, next, keep⟩ := hpart.sector hs hg hi hx hslots
      exact ⟨y, run, fault, fault, next, keep⟩) v fault ⟨fault, begun.symm ▸ part, slots⟩
  rw [ended] at upart
  refine ⟨u, ?_, ufault, upart⟩
  rw [strGroup, run, andThen_next_ok fault]
  exact sectors

theorem mxStr_runs {s : State} {base : Nat} (hs : s.StreamReady) (hsize : s.sec.size = 2352)
    (ready : s.StrReady base (s.rgba.size / (4 * (s.cfg.width.val * s.cfg.height.val)))) :
    let frames := s.rgba.size / (4 * (s.cfg.width.val * s.cfg.height.val))
    ∃ t, mxStr (Config.withBase base) s = .next t ∧ t.fault = false ∧ t.phase = .done ∧
      s.StrPart base frames frames frames (8 * frames) t := by
  intro frames
  obtain ⟨u, start, fault, started⟩ := startStream_runs hs
  obtain ⟨cfg, -⟩ := started.input
  have rgba : u.rgba = s.rgba := by rw [started.frame]
  have first : s.StrPart base frames 0 0 (8 * 0) u := by
    have channels := started.xaChannels ready.xa
    obtain ⟨frame, -⟩ := started
    refine ⟨?_, ?_, channels, [], ?_, .nil⟩
    · rw [frame]
      rfl
    · rw [frame]
      exact hsize
    · rw [frame]
      exact (List.append_nil _).symm
  obtain ⟨t, run, tfault, phase, done⟩ := chunkLoop_runs (P := fun n t => s.StrPart base frames n n (8 * n) t)
    (body := strGroup (Config.withBase base) s.cfg.format.val s.cfg.channels.val frames) frames
    (fun n t p ⟨frame, size, channels, emitted⟩ => ⟨by rw [State.setPhase, frame], size, channels, emitted⟩)
    (fun n t hn tf h => h.group ready hn tf) u fault first
  have count : countDiv s.rgba.size (4 * (s.cfg.width.val * s.cfg.height.val)) = frames :=
    countDiv_of_pos (Nat.mul_pos (by decide) (Nat.mul_pos ready.wide.1 ready.high.1))
  refine ⟨t, ?_, tfault, phase, done⟩
  rw [mxStr, withBase_startStream, start, andThen_next_ok fault, cfg, need_written hs.written.format,
    need_written hs.written.channels, needSize_written (by rw [cfg]; exact ready.width) (by rw [cfg]; exact ready.height),
    cfg, rgba]
  simp only [count]
  exact run

theorem State.StreamReady.strReady {s : State} {base : Nat} (hs : s.StreamReady) (hb : s.tbuilt = true)
    (hformat : s.cfg.format.val.video)
    (hfits : ∀ n, n < s.rgba.size / (4 * (s.cfg.width.val * s.cfg.height.val)) →
      nmb s.cfg.width.val s.cfg.height.val ≤ 13 ∨ s.frameFits n)
    (htime : ∀ n, n < 8 * (s.rgba.size / (4 * (s.cfg.width.val * s.cfg.height.val))) → n + base < 450000) :
    s.StrReady base (s.rgba.size / (4 * (s.cfg.width.val * s.cfg.height.val))) := by
  obtain ⟨width, height⟩ := hs.written.size hformat
  obtain ⟨w0, w16, h0, h16⟩ := hs.valid 6 (by decide) (by decide) hformat
  refine ⟨hs.fault, hs.xaReady (.inr (.inr hformat)), hb, width, height, ⟨w0, w16⟩, ⟨h0, h16⟩,
    fun n hn => State.frameRoom_of (hfits n hn), fun n hn => ?_, htime⟩
  have whole : (n + 1) * (4 * (s.cfg.width.val * s.cfg.height.val)) ≤ s.rgba.size := Nat.mul_le_of_le_div _ _ _ hn
  refine le_trans (le_of_eq ?_) whole
  rw [frameEnd]
  ring

theorem videoSubmode_byte (p : Prop) [Decidable p] :
    BitVec.ofNat 8 (videoSubmode (decide p)) = if p then (0xC9 : Byte) else 0x48 := by
  rw [videoSubmode]
  by_cases h : p
  · rw [if_pos h, if_pos (decide_eq_true h)]
    rfl
  · rw [if_neg h, if_neg (by simpa using h)]
    rfl

theorem headerKind (m : Nat) {form : Nat} {pq : Bool} (hform : form = 1 ∨ form = 2) (hpq : pq = true → form = 1) :
    SectorKindOk (headerBytes m) form pq := ⟨le_rfl, hform, hpq⟩

/-- The stamp of a whole sector in a string. -/
theorem stamp_of_run {x : List Byte} {p m form : Nat} {pq : Bool} {read : Nat → Byte}
    (hk : SectorKindOk (headerBytes m) form pq)
    (h : (x.drop p).take 2352 = bytesOf (finishedSector read (headerBytes m) form pq) 0 2352) :
    (x.drop p).take 16 = headerBytes m := by
  rw [header_of_run h, finishedSector_headerBytes hk]

/-- A chunk of a frame in a video sector. -/
theorem State.VideoBody.payload_at {s : State} {g j m : Nat} {last pq : Bool} {read : Nat → Byte} {x : List Byte} {o : Nat}
    (hk : SectorKindOk (headerBytes m) 1 pq) (h : SectorAt x o (finishedSector read (headerBytes m) 1 pq)) (hj : j < 7)
    (body : s.VideoBody g j last read) :
    ∃ u, exec (.vdFrame g) { s with fcFrameIndex := Config.hw.firstFrame + g } = .next u ∧ u.fault = false ∧
      ∀ k, k < 2048 → x.getD (o + 8 + k) 0 = u.dmxByte (2048 * j + k) := by
  obtain ⟨byte, ⟨u, run, fault, slots⟩, payload⟩ := body.payload
  refine ⟨u, run, fault, fun k hk' => ?_⟩
  rw [Nat.add_assoc, h.byte (by omega), finishedSector_body hk (by omega) (by rw [edcLength_one]; omega),
    ← slots _ (by omega), ← payload k hk']
  congr 1
  omega

/-- Settles O51: group after group, each the chunks of one frame around the sound of one sector. -/
theorem strStreamIsGroupsOfEight : Obligations.StrStreamIsGroupsOfEight := by
  intro s base hs hmem hb hformat w h frames size hfits htime
  obtain ⟨-, -, -, -, -, -, hsize, -⟩ := hmem
  have ready := hs.strReady hb hformat hfits htime
  obtain ⟨t, run, fault, phase, frame, -, -, x, sink, emitted⟩ := mxStr_runs hs hsize ready
  have index : t.fcFrameIndex = Config.hw.firstFrame + frames := by rw [frame]
  refine ⟨t, x, run, fun h => ?_, phase, fault, sink, ?_, index, fun g i hg hi => ?_, ?_⟩
  · rw [h, withBase_hw] at run
    exact (unlessFaulted_ok hs.fault _).trans run
  · rw [emitted.length, Nat.mul_comm, Nat.mul_comm 8, Nat.mul_assoc]
    rfl
  · intro n last o
    obtain ⟨audio, video⟩ := emitted.each n (show 8 * g + i < 8 * frames by omega)
    have group : n / 8 = g ∧ n % 8 = i := by omega
    rw [group.1, group.2, Nat.mul_comm s.strSize] at audio video
    have whole : s.cfg.format.val = .str2cd → s.strSize = 2352 := fun h => if_pos h
    by_cases slot : i = Config.hw.audioSlot
    · obtain ⟨read, body, sector⟩ := audio slot
      have kind := headerKind (n + base) (form := 2) (pq := false) (.inr rfl) (by decide)
      have placed := sectorAt_of_run s.strSize_cases sector
      rw [if_pos slot]
      refine ⟨fun h => ?_, ?_, body.payload kind placed, placed.edcAt kind⟩
      · rw [whole h] at sector
        rw [show size = 2352 from whole h]
        exact stamp_of_run kind sector
      · rw [← audioSubmode_byte]
        exact hs.subheaderAt ready.xa (audioSubmode_le _) s.coding_le (placed.subheader kind body.subheader)
    · obtain ⟨read, body, sector⟩ := video slot
      have kind := headerKind (n + base) (form := 1) (pq := decide (s.cfg.format.val = .str2cd)) (.inl rfl) (fun _ => rfl)
      have placed := sectorAt_of_run s.strSize_cases sector
      rw [if_neg slot]
      refine ⟨fun h => ?_, ?_, placed.edcAt kind, body.payload_at kind placed ?_, ?_⟩
      · rw [whole h] at sector
        rw [show size = 2352 from whole h]
        exact stamp_of_run kind sector
      · rw [← videoSubmode_byte]
        exact hs.subheaderAt ready.xa (videoSubmode_le _) (coding := 0) (by decide) (placed.subheader kind body.subheader)
      · have slots := hw_audioSlot_lt
        split_ifs <;> omega
      · by_cases cd : s.cfg.format.val = .str2cd
        · rw [decide_eq_true cd] at placed
          have start : s.strSize - 2336 = 0x010 := by rw [whole cd]
          rw [if_pos cd]
          exact placed.parityAt (start.symm.le.trans (Nat.le_add_left _ _))
        · rw [decide_eq_false cd] at placed kind
          rw [if_neg cd]
          intro k hk
          have place : 0x010 + (0x80C + k) = 0x818 + (4 + k) := by omega
          have zero := placed.byte (k := 0x80C + k) (by omega)
          rw [place, finishedSector_rest kind (by rw [edcLength_one]; omega), body.tail (4 + k) (by omega),
            ← Nat.add_assoc] at zero
          exact zero
  · rw [← phase, index]
    exact frame

end Sys2Proof.Machine
end
